-- ==== Sys2Proof/Word.lean ====
section
/-! DEFINITION. The widths of the block's values (00_scope.md R7, R9, R11; 10_state.md R20) and its two operation words. -/

namespace Sys2Proof

/-- One register byte, one SegmentPattern, one bus address, one bus data byte (`SEG_W`, `ADDR_W`, `DATA_W` = 8, R7). -/
abbrev Byte := BitVec 8

/-- A BUS word `{we, addr[7:0], wdata[7:0]}` (R71). -/
abbrev BusWord := BitVec 17

/-- A TICK word: the single bit `tick` (R72). -/
abbrev TickWord := BitVec 1

/-- A timer divider class (`DIV_W` = 3, R7, R30). -/
abbrev DivClass := BitVec 3

/-- The digit-select lines, active low, bit i for position i (R32). -/
abbrev DigLines := BitVec 4

/-- A brightness level, 0..3 (R28). -/
abbrev Level := BitVec 2

/-- A digit position, the index of a cell and of its digit-select line (`N_POS` = 4, R22). -/
abbrev Position := Fin 4

/-- The word of one operation, in one of the two formats of 30_encoding.md R70. -/
inductive OpWord where
  | bus (w : BusWord)
  | tick (t : TickWord)
  deriving DecidableEq, Repr

end Sys2Proof
end

