-- ==== Sys2Proof/Syntax.lean ====
section
/-! DEFINITION. The operations of 30_encoding.md R75, one constructor per mnemonic of spec/opcode_table.json. -/

namespace Sys2Proof

/-- An operation the block accepts (R75). Operands are those the operation's own rule gives it; the don't-care byte of a
read is no operand (R71). -/
inductive Instr where
  /-- Read display cell `p` (R92). -/
  | rdcell (p : Position)
  /-- Write `d` to display cell `p` (R93). -/
  | wrcell (p : Position) (d : Byte)
  /-- Read the brightness level (R95). -/
  | rdbright
  /-- Set the brightness level from the signed byte `d` (R96). -/
  | wrbright (d : Byte)
  /-- Read the control register (R98). -/
  | rdctrl
  /-- Request the control actions of `d` (R99). -/
  | wrctrl (d : Byte)
  /-- Read the sequencer's state (R104). -/
  | rdstatus
  /-- Write `d` to the read-only status register (R105). -/
  | wrstatus (d : Byte)
  /-- Read the unmapped address `a` (R106). -/
  | rdnone (a : Byte)
  /-- Write `d` to the unmapped address `a` (R107). -/
  | wrnone (a d : Byte)
  /-- One timer overflow (R122). -/
  | tick
  deriving DecidableEq, Repr

end Sys2Proof
end

