-- ==== Sys2Proof/WellFormed.lean ====
section
/-! DEFINITION. Which terms of `Instr` are operations of the block: the only side condition of 30_encoding.md R75 is that
RDNONE and WRNONE name an unmapped address. -/

namespace Sys2Proof

/-- The addresses 20_memory.md R51 leaves unmapped: 0x04..0x7F and 0x83..0xFF. -/
def unmapped (a : Byte) : Bool :=
  (0x04 ≤ a.toNat && a.toNat ≤ 0x7F) || 0x83 ≤ a.toNat

/-- An operation has an encoding exactly when its address operand, if any, is of its own row (R75). -/
def Instr.wellFormed : Instr → Bool
  | .rdcell _ => true
  | .wrcell _ _ => true
  | .rdbright => true
  | .wrbright _ => true
  | .rdctrl => true
  | .wrctrl _ => true
  | .rdstatus => true
  | .wrstatus _ => true
  | .rdnone a => unmapped a
  | .wrnone a _ => unmapped a
  | .tick => true

end Sys2Proof
end

