-- ==== Sys2Proof/Decode.lean ====
section
/-! DEFINITION. From words to operations (30_encoding.md R74, R76), total, rejecting by name what is no operation; then the
encoder and the opcode map R75 as a table. -/

namespace Sys2Proof

/-- `we` = `w[16]` (R71). -/
def busWe (w : BusWord) : Bool := w.getLsbD 16

/-- `addr` = `w[15:8]` (R71). -/
def busAddr (w : BusWord) : Byte := w.extractLsb' 8 8

/-- `wdata` = `w[7:0]` (R71). -/
def busData (w : BusWord) : Byte := w.extractLsb' 0 8

/-- A cell is addressed when `addr[7:2]` = 0 (R74). -/
def isCellAddr (a : Byte) : Bool := a.extractLsb' 2 6 == 0

/-- The cell index `p` = `addr[1:0]`, unsigned (R74). -/
def cellIndex (a : Byte) : Position := (a.extractLsb' 0 2).toFin

/-- The RD operation of an address (R76). -/
def decodeRead (a : Byte) : Instr :=
  if isCellAddr a then .rdcell (cellIndex a)
  else if a = 0x80 then .rdbright
  else if a = 0x81 then .rdctrl
  else if a = 0x82 then .rdstatus
  else .rdnone a

/-- The WR operation of an address and a data byte (R76). -/
def decodeWrite (a d : Byte) : Instr :=
  if isCellAddr a then .wrcell (cellIndex a) d
  else if a = 0x80 then .wrbright d
  else if a = 0x81 then .wrctrl d
  else if a = 0x82 then .wrstatus d
  else .wrnone a d

/-- The operation of a BUS word; every one of the 2^17 words has one (R75, R76, R77). -/
def decodeBus (w : BusWord) : Instr :=
  if busWe w then decodeWrite (busAddr w) (busData w) else decodeRead (busAddr w)

/-- Why bits are no operation. -/
inductive DecodeError where
  /-- The TICK format with `tick` = 0: no event is present (R70, R72). -/
  | noTickPulse
  /-- More bits are set than a TICK word has (R72, R78). -/
  | notATickWord
  /-- More bits are set than a BUS word has (R71, R78). -/
  | notABusWord
  deriving DecidableEq, Repr

/-- The operation of a word of either format. -/
def decode : OpWord → Except DecodeError Instr
  | .bus w => .ok (decodeBus w)
  | .tick t => if t = 1 then .ok .tick else .error .noTickPulse

/-- The word that `nbits` bits of value `w` stand for, with bit 0 the least significant. The table gives a BUS row 17 bits
and a TICK row 1 bit, so up to one byte is the TICK format and more is the BUS format (log entry 11). -/
def wordOfBits (nbits w : Nat) : Except DecodeError OpWord :=
  if nbits ≤ 8 then
    if w < 2 ^ 1 then .ok (.tick (BitVec.ofNat 1 w)) else .error .notATickWord
  else
    if w < 2 ^ 17 then .ok (.bus (BitVec.ofNat 17 w)) else .error .notABusWord

/-- The operation that `nbits` bits of value `w` stand for, or why there is none. -/
def decodeBits (nbits w : Nat) : Except DecodeError Instr :=
  match wordOfBits nbits w with
  | .ok x => decode x
  | .error e => .error e

/-- The operation the decoder reads from a word of spec/opcode_table.json, numbered as the table numbers its bits. -/
def decodeTableWord (nbits w : Nat) : Option Instr :=
  (decodeBits nbits w).toOption

/-- The BUS word `{we, addr, wdata}` (R71). -/
def busWord (we : Bool) (a d : Byte) : BusWord := BitVec.ofBool we ++ a ++ d

/-- The address of a cell: position p is at address p (R51, R74). -/
def cellAddr (p : Position) : Byte := BitVec.ofNat 8 p.val

/-- The word of an operation; the don't-care byte of a read is written 0 (R71, R75). -/
def encode : Instr → OpWord
  | .rdcell p => .bus (busWord false (cellAddr p) 0)
  | .wrcell p d => .bus (busWord true (cellAddr p) d)
  | .rdbright => .bus (busWord false 0x80 0)
  | .wrbright d => .bus (busWord true 0x80 d)
  | .rdctrl => .bus (busWord false 0x81 0)
  | .wrctrl d => .bus (busWord true 0x81 d)
  | .rdstatus => .bus (busWord false 0x82 0)
  | .wrstatus d => .bus (busWord true 0x82 d)
  | .rdnone a => .bus (busWord false a 0)
  | .wrnone a d => .bus (busWord true a d)
  | .tick => .tick 1

/-- The mnemonic of an operation, as spec/opcode_table.json spells it. -/
def Instr.mnemonic : Instr → String
  | .rdcell _ => "RDCELL"
  | .wrcell _ _ => "WRCELL"
  | .rdbright => "RDBRIGHT"
  | .wrbright _ => "WRBRIGHT"
  | .rdctrl => "RDCTRL"
  | .wrctrl _ => "WRCTRL"
  | .rdstatus => "RDSTATUS"
  | .wrstatus _ => "WRSTATUS"
  | .rdnone _ => "RDNONE"
  | .wrnone _ _ => "WRNONE"
  | .tick => "TICK"

/-- One BUS row of spec/opcode_table.json. -/
structure BusRow where
  mnemonic : String
  pattern : BusWord
  mask : BusWord
  deriving DecidableEq, Repr

/-- A word is of a row when its masked bits are the row's pattern (R75). -/
def BusRow.matches (r : BusRow) (w : BusWord) : Bool := w &&& r.mask == r.pattern

/-- The rows of the mapped registers (R75). -/
def mappedRows : List BusRow :=
  [⟨"RDCELL", 0x00000, 0x1FC00⟩, ⟨"WRCELL", 0x10000, 0x1FC00⟩,
   ⟨"RDBRIGHT", 0x08000, 0x1FF00⟩, ⟨"WRBRIGHT", 0x18000, 0x1FF00⟩,
   ⟨"RDCTRL", 0x08100, 0x1FF00⟩, ⟨"WRCTRL", 0x18100, 0x1FF00⟩,
   ⟨"RDSTATUS", 0x08200, 0x1FF00⟩, ⟨"WRSTATUS", 0x18200, 0x1FF00⟩]

/-- The RDNONE rows: the unmapped ranges as aligned blocks (R75). -/
def rdnoneRows : List BusRow :=
  [⟨"RDNONE", 0x00400, 0x1FC00⟩, ⟨"RDNONE", 0x00800, 0x1F800⟩, ⟨"RDNONE", 0x01000, 0x1F000⟩,
   ⟨"RDNONE", 0x02000, 0x1E000⟩, ⟨"RDNONE", 0x04000, 0x1C000⟩, ⟨"RDNONE", 0x08300, 0x1FF00⟩,
   ⟨"RDNONE", 0x08400, 0x1FC00⟩, ⟨"RDNONE", 0x08800, 0x1F800⟩, ⟨"RDNONE", 0x09000, 0x1F000⟩,
   ⟨"RDNONE", 0x0A000, 0x1E000⟩, ⟨"RDNONE", 0x0C000, 0x1C000⟩]

/-- The WRNONE rows: the unmapped ranges as aligned blocks (R75). -/
def wrnoneRows : List BusRow :=
  [⟨"WRNONE", 0x10400, 0x1FC00⟩, ⟨"WRNONE", 0x10800, 0x1F800⟩, ⟨"WRNONE", 0x11000, 0x1F000⟩,
   ⟨"WRNONE", 0x12000, 0x1E000⟩, ⟨"WRNONE", 0x14000, 0x1C000⟩, ⟨"WRNONE", 0x18300, 0x1FF00⟩,
   ⟨"WRNONE", 0x18400, 0x1FC00⟩, ⟨"WRNONE", 0x18800, 0x1F800⟩, ⟨"WRNONE", 0x19000, 0x1F000⟩,
   ⟨"WRNONE", 0x1A000, 0x1E000⟩, ⟨"WRNONE", 0x1C000, 0x1C000⟩]

/-- Every BUS row of the opcode map (R75). -/
def busRows : List BusRow := mappedRows ++ rdnoneRows ++ wrnoneRows

end Sys2Proof
end

