-- ==== Sys2Proof/Config.lean ====
section
/-! DEFINITION. What is fixed for the block: the parameters of 00_scope.md R7 as named constants
(93_implementation_defined.md I1) and the divider tables of 10_state.md R29. -/

namespace Sys2Proof.Config

/-- `MAX_LEVEL` (R7, R28). -/
def maxLevel : Nat := 3

/-- `ON[0..3]`, the display-phase divider classes by level (R29). -/
def onTable : Vector DivClass 4 := #v[2, 2, 2, 4]

/-- `OFF[0..3]`, the pause-phase divider classes by level (R29). -/
def offTable : Vector DivClass 4 := #v[6, 5, 4, 0]

/-- `RESET_BRIGHT`, the brightness after reset (R7, R170; log entry 5). -/
def resetBright : Level := 3

/-- `GAP`, the cycles all digit lines stay off between digits (R7, R181). It names the one-cycle delay that the
arm stage builds in (R121); no part of the step computes with it. -/
def gap : Nat := 1

end Sys2Proof.Config
end

