-- ==== Sys2Proof/Machine/State.lean ====
section
/-! DEFINITION. The block's state, exactly the registers of 10_state.md R20, with two fields of the model's own: the `rdata`
port and the schedule of inputs (log entries 1 and 3). -/

namespace Sys2Proof.Machine

/-- What the block samples at one rising edge of `clk`: its input ports (R36). -/
structure CycleInput where
  /-- Synchronous reset, active high (R170). -/
  rst : Bool
  /-- Timer overflow (R151). -/
  tick : Bool
  /-- A host transaction is present (R70). -/
  sel : Bool
  /-- 1 = write, 0 = read (R71). -/
  we : Bool
  /-- Register address (R51). -/
  addr : Byte
  /-- Write data (R71). -/
  wdata : Byte
  deriving DecidableEq, Repr

/-- An idle cycle: no reset, no tick, no transaction (R73). -/
def CycleInput.idle : CycleInput := ⟨false, false, false, false, 0, 0⟩

/-- What a processed tick performs: the states of the source's sequencer (R127). -/
inductive Phase where
  /-- DISPLAY(i) (R124). -/
  | display (i : Position)
  /-- PAUSE (R126). -/
  | pause
  deriving DecidableEq, Repr

/-- The block raises no exception and no operation fails (R150), so there is no reason for a fault: the type is empty. -/
inductive Fault where
  deriving DecidableEq, Repr

/-- Why the model gives a run no meaning. -/
inductive Refusal where
  /-- Raised by `exec` for an operation without a meaning, by its mnemonic; safe. No arm raises it. -/
  | notModelled (mnemonic : String)
  /-- Raised by `runFromReset` (Safety.lean) for a run that does not start at reset, which R171 refuses; safe. No step and
  no operation raises it. -/
  | runNotFromReset
  deriving DecidableEq, Repr

/-- The state between two rising edges. -/
structure State where
  /-- `CELL[0..3]`, the display buffer (R22). -/
  cell : Vector Byte 4
  /-- `BRIGHT`, the brightness level (R28). -/
  bright : Level
  /-- `EN`, ticks are processed (R27). -/
  en : Bool
  /-- `POS`, the sequencer's position counter (R25). -/
  pos : BitVec 3
  /-- `PH`, the blank phase is in progress (R26). -/
  ph : Bool
  /-- `DIV`, the selected timer divider class (R30). -/
  div : DivClass
  /-- `SEG`, the pattern on the segment bus (R31). -/
  seg : Byte
  /-- `DIGN`, the digit-select lines, active low (R32). -/
  dign : DigLines
  /-- `ARM`, an assertion is pending for the next step (R33). -/
  arm : Bool
  /-- `DNEXT`, the lines that the pending assertion drives (R33). -/
  dnext : DigLines
  /-- The model's own: the value the output port `rdata` carried in the cycle that ended at this state (R36, R90). -/
  rdata : Byte
  /-- The model's own: what the environment drives at the coming edges, the next one first (R35, R6). -/
  inputs : List CycleInput
  deriving DecidableEq, Repr

/-- `RESET_STATE` (R170), with no input scheduled. -/
def State.reset : State where
  cell := #v[0x00, 0x00, 0x00, 0x00]
  bright := Config.resetBright
  en := false
  pos := 0
  ph := false
  div := 0
  seg := 0x00
  dign := 0b1111
  arm := false
  dnext := 0b1111
  rdata := 0x00
  inputs := []

end Sys2Proof.Machine
end

