-- ==== Sys2Proof/Machine/Flags.lean ====
section
/-! DEFINITION. The read layouts of BRIGHT, CTRL and STATUS, in which the block's two status bits `EN` and `PH` appear
(30_encoding.md R74, R77). -/

namespace Sys2Proof.Machine

/-- BRIGHT read data: `{6'b0, BRIGHT[1:0]}` (R74, R95). -/
def brightByte (s : State) : Byte := s.bright.setWidth 8

/-- CTRL read data: `{7'b0, EN}` (R74, R98). -/
def ctrlByte (s : State) : Byte := (BitVec.ofBool s.en).setWidth 8

/-- STATUS read data: `{1'b0, DIV[2:0], PH, POS[2:0]}` (R74, R104). -/
def statusByte (s : State) : Byte := 0#1 ++ s.div ++ BitVec.ofBool s.ph ++ s.pos

end Sys2Proof.Machine
end

