-- ==== Sys2Proof/Machine/Operands.lean ====
section
/-! DEFINITION. Operand decoding (30_encoding.md R74), the divider classes of a level (10_state.md R29), and the primitives of
00_scope.md R10. -/

namespace Sys2Proof.Machine

/-- `clamp(x, lo, hi)` on unbounded integers (R10). -/
def clamp (x lo hi : Int) : Int :=
  if x < lo then lo else if hi < x then hi else x

/-- `sext_8(d)`: the byte as two's complement, -128..127 (R10, R74). -/
def sext8 (d : Byte) : Int := d.toInt

/-- The level that BRIGHT write data selects: `clamp(sext_8(d), 0, MAX_LEVEL)` (R96). -/
def levelOf (d : Byte) : Level := BitVec.ofInt 2 (clamp (sext8 d) 0 Config.maxLevel)

/-- `ON[b]`, the class of a display phase (R29). -/
def onDiv (b : Level) : DivClass := Config.onTable[b.toNat]

/-- `OFF[b]`, the class of a pause phase (R29). -/
def offDiv (b : Level) : DivClass := Config.offTable[b.toNat]

/-- CTRL write data bit 0 requests INIT (R74, R99). -/
def wantsInit (d : Byte) : Bool := d.getLsbD 0

/-- CTRL write data bit 1 requests CLEAR (R74, R99). -/
def wantsClear (d : Byte) : Bool := d.getLsbD 1

/-- The lines with position `i` alone asserted: `~(1 << i) & 0b1111` (R124). -/
def selectLine (i : Position) : DigLines := ~~~(1#4 <<< i.val)

/-- `sat8(v)`: an integer saturated to a two's-complement byte, as a host does before it writes BRIGHT (R80). -/
def sat8 (v : Int) : Byte := BitVec.ofInt 8 (clamp v (-128) 127)

end Sys2Proof.Machine
end

