-- ==== Sys2Proof/Machine/Ops.lean ====
section
/-! DEFINITION. The named operations over the registers that the meanings and the cycle share. The block has no exception
entry and no return (60_exceptions.md R150, R154, R155): processing a tick is its counterpart of an interrupt, and it is
`tickEffect`. -/

namespace Sys2Proof.Machine

/-- Drive the `rdata` port. -/
def State.setRdata (s : State) (d : Byte) : State := { s with rdata := d }

/-- `CELL[p] <- d`. -/
def State.setCell (s : State) (p : Position) (d : Byte) : State := { s with cell := s.cell.set p d }

/-- `BRIGHT <- b`. -/
def State.setBright (s : State) (b : Level) : State := { s with bright := b }

/-- Deassert all four digit-select lines: `DIGN <- 0b1111` (R123). -/
def State.deassert (s : State) : State := { s with dign := 0b1111 }

/-- ARM_STAGE: a pending assertion drives its line, one cycle late (R121). -/
def armStage (s : State) : State :=
  if s.arm then { s with dign := s.dnext, arm := false } else s

/-- DISPLAY(i, b) (R124). -/
def displayStep (i : Position) (b : Level) (s : State) : State :=
  { s with
    seg := s.cell[i]
    dnext := selectLine i
    arm := true
    div := onDiv b
    pos := BitVec.ofNat 3 (i.val + 1)
    ph := false }

/-- PAUSE(b) (R126). -/
def pauseStep (b : Level) (s : State) : State :=
  { s with
    div := offDiv b
    pos := 0
    ph := true
    arm := false }

/-- What a processed tick performs. `POS` 4 pauses, except at `MAX_LEVEL`, where it shows position 0 (R122, R125); 5..7 are
treated as 4 (R25; log entry 6). -/
def phaseOf (s : State) : Phase :=
  if h : s.pos.toNat < 4 then .display ⟨s.pos.toNat, h⟩
  else if s.bright.toNat = Config.maxLevel then .display 0
  else .pause

/-- TICK(S1): deassert the lines, then the display step or the pause step (R122, R123). -/
def tickEffect (s : State) : State :=
  match phaseOf s with
  | .display i => displayStep i s.bright s.deassert
  | .pause => pauseStep s.bright s.deassert

/-- INIT_ACTION (R100). -/
def initAction (s : State) : State :=
  { s with
    en := true
    pos := 0
    ph := false
    div := onDiv s.bright }

/-- CLEAR_ACTION (R101). -/
def clearAction (s : State) : State :=
  { s with
    cell := #v[0x00, 0x00, 0x00, 0x00]
    seg := 0x00
    dign := 0b1111
    arm := false }

/-- BUS_READ(S, a): the byte the host register space holds at an address (R51, R90). -/
def busRead (s : State) (a : Byte) : Byte :=
  if isCellAddr a then s.cell[cellIndex a]
  else if a = 0x80 then brightByte s
  else if a = 0x81 then ctrlByte s
  else if a = 0x82 then statusByte s
  else 0x00

/-- The step of a cycle with `rst` = 1: every register takes its reset value, whatever it held (R170). The port `rdata`
keeps what the cycle's read, if any, drove on it (R90, R120; log entry 4), and the environment's schedule goes on
(log entry 18). -/
def resetCycle (s : State) : State :=
  { State.reset with rdata := s.rdata, inputs := s.inputs }

/-- The inputs sampled at the next edge; past the end of the schedule the environment is idle (log entry 1). -/
def nextInput (s : State) : CycleInput := s.inputs.headD CycleInput.idle

/-- The start of a cycle: its inputs are taken from the schedule, and `rdata` is 0x00 unless a read drives it (R90). -/
def beginCycle (s : State) : State := { s with rdata := 0x00, inputs := s.inputs.tail }

/-- The BUS word a cycle's bus pins carry (R71). -/
def CycleInput.word (inp : CycleInput) : BusWord := busWord inp.we inp.addr inp.wdata

/-- The operation a cycle's `tick` pin carries, if any (R72). -/
def CycleInput.tickOp (inp : CycleInput) : Option Instr :=
  (decode (.tick (BitVec.ofBool inp.tick))).toOption

/-- The host read a cycle carries, if any (R90). -/
def CycleInput.readOp (inp : CycleInput) : Option Instr :=
  if inp.sel && !inp.we then (decode (.bus inp.word)).toOption else none

/-- The host write a cycle carries, if any (R91). -/
def CycleInput.writeOp (inp : CycleInput) : Option Instr :=
  if inp.sel && inp.we then (decode (.bus inp.word)).toOption else none

/-- The cycle that carries one operation word and nothing else (R70). -/
def CycleInput.ofWord : OpWord → CycleInput
  | .bus w => ⟨false, false, true, busWe w, busAddr w, busData w⟩
  | .tick t => ⟨false, t == 1, false, false, 0, 0⟩

/-- Schedule the cycle of the operation word that `nbits` bits of value `w` stand for at the next edge; bits that are no
word of either format schedule an idle cycle. -/
def scheduleBits (s : State) (nbits w : Nat) : State :=
  match wordOfBits nbits w with
  | .ok x => { s with inputs := CycleInput.ofWord x :: s.inputs }
  | .error _ => { s with inputs := CycleInput.idle :: s.inputs }

/-- Go on with the next phase of the cycle unless one has stopped. -/
def andThen (o : Host.Outcome State Fault Refusal) (f : State → Host.Outcome State Fault Refusal) :
    Host.Outcome State Fault Refusal :=
  match o with
  | .next s => f s
  | .fault r => .fault r
  | .refused r => .refused r

end Sys2Proof.Machine
end

