-- ==== Sys2Proof/Machine/BusRegisters.lean ====
section
/-! DEFINITION. The meanings of the BUS operations (40_bus_registers.md R92 to R107). A read drives `rdata` from the state it
is given and changes no register (R90); a write applies to the state it is given (R91); the cycle hands each the state the
spec names (Machine/Cycle.lean). -/

namespace Sys2Proof.Machine

/-- RDCELL p: `rdata <- CELL[p]` (R92). -/
def execRdcell (p : Position) (s : State) : Host.Outcome State Fault Refusal :=
  .next (s.setRdata s.cell[p])

/-- WRCELL p, d: `CELL[p] <- d`; any byte is legal (R93, R94). -/
def execWrcell (p : Position) (d : Byte) (s : State) : Host.Outcome State Fault Refusal :=
  .next (s.setCell p d)

/-- RDBRIGHT: `rdata <- zext_8(BRIGHT)` (R95). -/
def execRdbright (s : State) : Host.Outcome State Fault Refusal :=
  .next (s.setRdata (brightByte s))

/-- WRBRIGHT d: `BRIGHT <- clamp(sext_8(d), 0, MAX_LEVEL)`; `DIV` is not written (R96). -/
def execWrbright (d : Byte) (s : State) : Host.Outcome State Fault Refusal :=
  .next (s.setBright (levelOf d))

/-- RDCTRL: `rdata <- {7'b0, EN}` (R98). -/
def execRdctrl (s : State) : Host.Outcome State Fault Refusal :=
  .next (s.setRdata (ctrlByte s))

/-- WRCTRL d: CLEAR when bit 1 is set, then INIT when bit 0 is set; bits 7..2 are ignored (R99, R102, R103). -/
def execWrctrl (d : Byte) (s : State) : Host.Outcome State Fault Refusal :=
  let s1 := if wantsClear d then clearAction s else s
  .next (if wantsInit d then initAction s1 else s1)

/-- RDSTATUS: `rdata <- {1'b0, DIV, PH, POS}` (R104). -/
def execRdstatus (s : State) : Host.Outcome State Fault Refusal :=
  .next (s.setRdata (statusByte s))

/-- WRSTATUS: no state is written, and the write is not signalled (R105). -/
def execWrstatus (_d : Byte) (s : State) : Host.Outcome State Fault Refusal :=
  .next s

/-- RDNONE a: `rdata <- 0x00` (R106). -/
def execRdnone (_a : Byte) (s : State) : Host.Outcome State Fault Refusal :=
  .next (s.setRdata 0x00)

/-- WRNONE a, d: no state is written, and nothing signals the write (R107). -/
def execWrnone (_a _d : Byte) (s : State) : Host.Outcome State Fault Refusal :=
  .next s

end Sys2Proof.Machine
end

