-- ==== Sys2Proof/Machine/MultiplexTick.lean ====
section
/-! DEFINITION. The meaning of TICK (41_multiplex_tick.md R122). -/

namespace Sys2Proof.Machine

/-- TICK: processed when `EN` = 1, and otherwise dropped and not remembered (R122, R151). It completes within its step and
saves nothing (R154, R155). -/
def execTick (s : State) : Host.Outcome State Fault Refusal :=
  .next (if s.en then tickEffect s else s)

end Sys2Proof.Machine
end

