-- ==== Sys2Proof/Machine/Dispatch.lean ====
section
/-! DEFINITION. One arm per operation. -/

namespace Sys2Proof.Machine

/-- The meaning of an operation in the phase of the cycle that performs it. -/
def exec (i : Instr) (s : State) : Host.Outcome State Fault Refusal :=
  match i with
  | .rdcell p => Sys2Proof.Machine.execRdcell p s
  | .wrcell p d => Sys2Proof.Machine.execWrcell p d s
  | .rdbright => Sys2Proof.Machine.execRdbright s
  | .wrbright d => Sys2Proof.Machine.execWrbright d s
  | .rdctrl => Sys2Proof.Machine.execRdctrl s
  | .wrctrl d => Sys2Proof.Machine.execWrctrl d s
  | .rdstatus => Sys2Proof.Machine.execRdstatus s
  | .wrstatus d => Sys2Proof.Machine.execWrstatus d s
  | .rdnone a => Sys2Proof.Machine.execRdnone a s
  | .wrnone a d => Sys2Proof.Machine.execWrnone a d s
  | .tick => Sys2Proof.Machine.execTick s

end Sys2Proof.Machine
end

