-- ==== Sys2Proof/Machine/Cycle.lean ====
section
/-! DEFINITION. One clock cycle (41_multiplex_tick.md R120): the operations its pins carry, each run at the point of the
cycle's fixed order that the spec gives it. -/

namespace Sys2Proof.Machine

/-- Run an operation, if there is one. -/
def execOp (o : Option Instr) (s : State) : Host.Outcome State Fault Refusal :=
  match o with
  | some i => exec i s
  | none => .next s

/-- One cycle, from the state at its start: reset wins over everything and discards the tick and the write; otherwise the arm
stage, the tick and the host write, in that order (R120, R153). A host read comes first because it is computed from the
state at the start of the cycle, also beside a reset (R90; log entry 4), and nothing after it touches `rdata`. -/
def runCycle (inp : CycleInput) (s : State) : Host.Outcome State Fault Refusal :=
  andThen (execOp inp.readOp s) fun s0 =>
  if inp.rst then .next (resetCycle s0)
  else
    andThen (execOp inp.tickOp (armStage s0)) fun s2 =>
    execOp inp.writeOp s2

/-- One rising edge: the inputs of the cycle are sampled and the cycle runs (R5). -/
def clockEdge (s : State) : Host.Outcome State Fault Refusal :=
  runCycle (nextInput s) (beginCycle s)

end Sys2Proof.Machine
end

