-- ==== Sys2Proof/Machine/Step.lean ====
section
/-! DEFINITION. The step: one rising edge of `clk` (00_scope.md R5). -/

namespace Sys2Proof.Machine

/-- One rising edge of the block clock. -/
def step (s : State) : Host.Outcome State Fault Refusal := clockEdge s

/-- `s` with the cycle of one operation word put at the head of the schedule (log entry 2). -/
def State.withFetchWord (s : State) (nbits w : Nat) : State := scheduleBits s nbits w

end Sys2Proof.Machine
end

