-- ==== Sys2Proof/Machine/HostOps.lean ====
section
/-! DEFINITION. The host's side: the cycles of the assembly syntax of 30_encoding.md R79 and the expansions of the
pseudo-operations of R80. -/

namespace Sys2Proof.Machine

/-- `rd A` (R79). -/
def CycleInput.rd (a : Byte) : CycleInput := ⟨false, false, true, false, a, 0⟩

/-- `wr A, D` (R79). -/
def CycleInput.wr (a d : Byte) : CycleInput := ⟨false, false, true, true, a, d⟩

/-- `tick`: a tick and no transaction (R79). -/
def CycleInput.tickOnly : CycleInput := ⟨false, true, false, false, 0, 0⟩

/-- `tick | …`: the same cycle with a tick (R79). -/
def CycleInput.withTick (inp : CycleInput) : CycleInput := { inp with tick := true }

/-- `reset`: a cycle with `rst` = 1 (R79). -/
def CycleInput.resetOnly : CycleInput := ⟨true, false, false, false, 0, 0⟩

/-- The register addresses that R79's names stand for (R51). -/
def addrBright : Byte := 0x80

/-- See `addrBright`. -/
def addrCtrl : Byte := 0x81

/-- See `addrBright`. -/
def addrStatus : Byte := 0x82

/-- The source's software operations (R80). -/
inductive PseudoOp where
  | init
  | clear
  | setBrightness (v : Int)
  | getBrightness
  | writeCell (p : Int) (v : Byte)
  | writeAll (a b c d : Byte)
  | readAll
  deriving DecidableEq, Repr

/-- The cycles a pseudo-operation expands to, one transaction per cycle (R80). -/
def PseudoOp.expand : PseudoOp → List CycleInput
  | .init => [.wr addrCtrl 0x01]
  | .clear => [.wr addrCtrl 0x02]
  | .setBrightness v => [.wr addrBright (sat8 v)]
  | .getBrightness => [.rd addrBright]
  | .writeCell p v => if 0 ≤ p ∧ p ≤ 0x7F then [.wr (BitVec.ofInt 8 p) v] else []
  | .writeAll a b c d => [.wr 0x00 a, .wr 0x01 b, .wr 0x02 c, .wr 0x03 d]
  | .readAll => [.rd 0x00, .rd 0x01, .rd 0x02, .rd 0x03]

end Sys2Proof.Machine
end

