-- ==== Sys2Proof/Machine/Ports.lean ====
section
/-! DEFINITION. The output ports of 10_state.md R36 and what they light (R23, R24). -/

namespace Sys2Proof.Machine

/-- `seg[7:0]` = `SEG` (R31, R36). -/
def segPort (s : State) : Byte := s.seg

/-- `dig_n[3:0]` = `DIGN` (R32, R36). -/
def digPort (s : State) : DigLines := s.dign

/-- `div_sel[2:0]` = `DIV` (R30, R36). -/
def divSel (s : State) : DivClass := s.div

/-- The segments of a digit, with its decimal point (R23). -/
inductive Segment where
  | a | b | c | d | e | f | g | dp
  deriving DecidableEq, Repr

/-- The bit of a SegmentPattern that names a segment: F,A,E,D,Dp,C,G,B at bits 7..0 (R23). -/
def segmentBit : Segment → Nat
  | .f => 7
  | .a => 6
  | .e => 5
  | .d => 4
  | .dp => 3
  | .c => 2
  | .g => 1
  | .b => 0

/-- The digit-select line of a position is asserted: driven low (R32). -/
def selected (s : State) (i : Position) : Bool := !(digPort s).getLsbD i.val

/-- A segment is lit: its pattern bit is 1 and its position is selected (R24). -/
def lit (s : State) (i : Position) (x : Segment) : Bool :=
  selected s i && (segPort s).getLsbD (segmentBit x)

end Sys2Proof.Machine
end

