-- ==== Sys2Proof/Machine/Observe.lean ====
section
/-! DEFINITION. What claims say about a cycle's inputs and about runs of several cycles. Nothing here is part of the step. -/

namespace Sys2Proof.Machine

/-- The cycle carries a host write to address `a`. -/
def CycleInput.writes (inp : CycleInput) (a : Byte) : Bool := inp.sel && inp.we && inp.addr == a

/-- The cycle carries a host read. -/
def CycleInput.isRead (inp : CycleInput) : Bool := inp.sel && !inp.we

/-- The cycle carries a CTRL write that requests INIT (R99). -/
def CycleInput.requestsInit (inp : CycleInput) : Bool := inp.writes 0x81 && inp.wdata.getLsbD 0

/-- The cycle carries a CTRL write that requests CLEAR (R99). -/
def CycleInput.requestsClear (inp : CycleInput) : Bool := inp.writes 0x81 && inp.wdata.getLsbD 1

/-- The cycle changes neither the sequencer from outside nor the level: no reset, no CTRL write, no BRIGHT write. Cell writes,
reads and ticks may occur. -/
def CycleInput.leavesSequencer (inp : CycleInput) : Bool :=
  !inp.rst && !inp.writes 0x81 && !inp.writes 0x80

/-- The cycle's tick is processed in state `s` (R122). -/
def processesTick (inp : CycleInput) (s : State) : Bool := !inp.rst && inp.tick && s.en

/-- BUS_WRITE(S, a, d) by the address map alone, without a decoder (R51, R120). -/
def busWrite (s : State) (a d : Byte) : State :=
  if h : a.toNat < 4 then { s with cell := s.cell.set a.toNat d h }
  else if a.toNat = 0x80 then { s with bright := levelOf d }
  else if a.toNat = 0x81 then
    let s1 := if wantsClear d then clearAction s else s
    if wantsInit d then initAction s1 else s1
  else s

/-- `n` edges from a state, stopping at the first stop. -/
def runSteps : Nat → State → Host.Outcome State Fault Refusal
  | 0, s => .next s
  | n + 1, s => andThen (step s) (runSteps n)

/-- What the processed ticks of the next `n` edges perform, in order (R127). -/
def performed : Nat → State → List Phase
  | 0, _ => []
  | n + 1, s =>
    (if processesTick (nextInput s) s then [phaseOf s] else []) ++
      match step s with
      | .next t => performed n t
      | .fault _ => []
      | .refused _ => []

/-- After how many of the next `n` edges the line of position `i` is asserted (R182). -/
def litCycles (i : Position) : Nat → State → Nat
  | 0, _ => 0
  | n + 1, s =>
    match step s with
    | .next t => (if selected t i then 1 else 0) + litCycles i n t
    | .fault _ => 0
    | .refused _ => 0

/-- After how many of the next `n` edges some digit-select line is asserted (R182). -/
def anyLitCycles : Nat → State → Nat
  | 0, _ => 0
  | n + 1, s =>
    match step s with
    | .next t => (if digPort t ≠ 0b1111 then 1 else 0) + anyLitCycles n t
    | .fault _ => 0
    | .refused _ => 0

/-- At how many of the next `n` edges the line of position `i` passes from deasserted to asserted (R128). -/
def assertions (i : Position) : Nat → State → Nat
  | 0, _ => 0
  | n + 1, s =>
    match step s with
    | .next t => (if !selected s i && selected t i then 1 else 0) + assertions i n t
    | .fault _ => 0
    | .refused _ => 0

/-- What passes between the block and the timer in the next `n` cycles: the `tick` input and the `div_sel` that stands during
the cycle (R160). -/
def timerTrace : Nat → State → List (Bool × DivClass)
  | 0, _ => []
  | n + 1, s =>
    ((nextInput s).tick, divSel s) ::
      match step s with
      | .next t => timerTrace n t
      | .fault _ => []
      | .refused _ => []

end Sys2Proof.Machine
end

