-- ==== Sys2Proof/Safety.lean ====
section
/-! DEFINITION. Which states and runs claims are about: the invariant of 10_state.md R34, runs from reset (R171), and the
premises of claims about time: the timer contract R160 and the tick spacing R161. -/

namespace Sys2Proof.Machine

/-- How many digit-select lines are driven low. -/
def lowLines (v : DigLines) : Nat := (List.range 4).countP fun i => !v.getLsbD i

/-- What every state reachable from reset satisfies (R34). -/
structure SeqInv (s : State) : Prop where
  /-- R34 item 1: at most one digit line is asserted. -/
  digits : lowLines s.dign ≤ 1
  /-- R34 item 2: `POS` is in 0..4. -/
  position : s.pos.toNat ≤ 4
  /-- R34 item 3, enabled: `DIV` is one of the classes the tables hold but 0. -/
  enabled : s.en = true → s.div = 2 ∨ s.div = 4 ∨ s.div = 5 ∨ s.div = 6
  /-- R34 item 3, not enabled: no tick has been processed. -/
  disabled : s.en = false → s.div = 0 ∧ s.pos = 0 ∧ s.ph = false ∧ s.arm = false ∧ s.dign = 0b1111
  /-- R34 item 4: in the blank phase every line is deasserted and none is pending. -/
  blank : s.ph = true → s.pos = 0 ∧ s.arm = false ∧ s.dign = 0b1111
  /-- R34 item 5: a pending assertion is of exactly one line, and the lines are deasserted until it. -/
  armed : s.arm = true → s.dign = 0b1111 ∧ lowLines s.dnext = 1

/-- The state is `RESET_STATE`, whatever inputs are scheduled. -/
def startsAtReset (s : State) : Bool := { s with inputs := [] } == State.reset

/-- A run of `n` edges. One that does not start at `RESET_STATE` has no meaning and is refused (R171). -/
def runFromReset (n : Nat) (s : State) : Host.Outcome State Fault Refusal :=
  if startsAtReset s then runSteps n s else .refused .runNotFromReset

/-- The part of the timer's contract that says when a tick may come, over a trace of cycles, for the OPEN parameter
`period` = TICK_PERIOD (R160; log entry 13). -/
structure TimerSpacing (period : DivClass → Nat) (tr : List (Bool × DivClass)) : Prop where
  /-- While `div_sel` is 0 the timer produces no tick. -/
  stopped : ∀ (k : Nat) (t : Bool), tr[k]? = some (t, 0) → t = false
  /-- While `div_sel` stays `c`, the next tick after one comes exactly `period c` cycles later. -/
  spaced : ∀ (i k : Nat) (c d : DivClass) (t : Bool),
    c ≠ 0 → tr[i]? = some (true, d) → i < k → tr[k]? = some (t, c) →
    (∀ m, i < m → m < k → tr[m]? = some (false, c)) →
    (t = true ↔ k = i + period c)

/-- The order of the periods of the pause classes: a lower level pauses longer (R160). -/
structure PeriodsOrdered (period : DivClass → Nat) : Prop where
  /-- TICK_PERIOD(6) > TICK_PERIOD(5). -/
  six : period 5 < period 6
  /-- TICK_PERIOD(5) > TICK_PERIOD(4). -/
  five : period 4 < period 5

/-- The timer's contract with the block over a trace of cycles (R160; log entry 13). Its OPEN parameter TICK_PERIOD has two
parts: `period c`, the cycles between two ticks under class `c`, and `longest c`, within how many cycles under `c` a tick
comes when `div_sel` has changed, whether the counter restarts or runs on. -/
structure TimerContract (period longest : DivClass → Nat) (tr : List (Bool × DivClass)) : Prop
    extends TimerSpacing period tr where
  /-- The pause classes are ordered. -/
  ordered : PeriodsOrdered period
  /-- For a class other than 0 the timer produces ticks: `longest c` cycles under `c` never pass without one. -/
  produces : ∀ (i : Nat) (c : DivClass), c ≠ 0 →
    (∀ m, i ≤ m → m < i + longest c → ∃ t, tr[m]? = some (t, c)) →
    ∃ m, i ≤ m ∧ m < i + longest c ∧ tr[m]? = some (true, c)

/-- No tick follows another at the very next edge: ticks are at least `GAP` + 1 = 2 cycles apart (R161, R178). -/
def ticksSpaced : List CycleInput → Bool
  | [] => true
  | [_] => true
  | a :: b :: l => !(a.tick && b.tick) && ticksSpaced (b :: l)

/-- The cycles of one phase of `p` cycles: a tick at its first edge and none after, with the sequencer left alone (R182). -/
def isPhase (p : Nat) (l : List CycleInput) : Bool :=
  match l with
  | [] => false
  | a :: rest =>
    l.length == p && a.tick && a.leavesSequencer && rest.all fun b => !b.tick && b.leavesSequencer

end Sys2Proof.Machine
end

