-- ==== Sys2Proof/Certificates/Slice0/Obligations.lean ====
section
/-! DEFINITION. The statements for the provers. Each docstring names the rules of spec/ it formalises. -/

open Sys2Proof Sys2Proof.Machine

/-! ### Encoding (30_encoding.md) -/

/-- R71, R74, R75: decoding the word of any operation that has one gives the operation back. -/
def Obligations.EncodeThenDecodeGivesBackEveryOperation : Prop :=
  ∀ i : Instr, i.wellFormed = true → decode (encode i) = .ok i

/-- R71, R76: the operation of the word `we*0x10000 + addr*0x100 + wdata`, by the value of the address. -/
def Obligations.BusWordNumberDecodesByAddress : Prop :=
  ∀ (we : Bool) (a d : Byte),
    decodeBus (BitVec.ofNat 17 (we.toNat * 0x10000 + a.toNat * 0x100 + d.toNat)) =
      if h : a.toNat < 4 then (if we then .wrcell ⟨a.toNat, h⟩ d else .rdcell ⟨a.toNat, h⟩)
      else if a.toNat = 0x80 then (if we then .wrbright d else .rdbright)
      else if a.toNat = 0x81 then (if we then .wrctrl d else .rdctrl)
      else if a.toNat = 0x82 then (if we then .wrstatus d else .rdstatus)
      else (if we then .wrnone a d else .rdnone a)

/-- R75: every BUS word is of exactly one row of the opcode map, the row of the operation it decodes to. -/
def Obligations.OpcodeMapRowsPartitionTheBusWords : Prop :=
  ∀ w : BusWord, ∃ r ∈ busRows, r.matches w = true ∧ r.mnemonic = (decodeBus w).mnemonic ∧
    ∀ r' ∈ busRows, r'.matches w = true → r' = r

/-- R71, R75: encoding the operation of a BUS word gives the word back, with the don't-care byte of a read written 0; and
every BUS word decodes to an operation that has an encoding. -/
def Obligations.DecodeThenEncodeGivesTheWordLessDontCares : Prop :=
  ∀ w : BusWord, (decodeBus w).wellFormed = true ∧
    encode (decodeBus w) = .bus (if w.getLsbD 16 then w else w &&& 0x1FF00)

/-- R71, R72, R75: words of 30_encoding.md and 95_test_vectors.md and what they stand for. That 24 bits are read in the BUS
format and 8 in the TICK format is the model's choice (log entry 11), and that a TICK word of 0 is no operation is its
reading of R70 (log entry 12). -/
def Obligations.WordsOfTheSpecDecode : Prop :=
  decodeTableWord 24 0x10005 = some (.wrcell 0 0x05) ∧ decodeTableWord 24 0x00200 = some (.rdcell 2) ∧
  decodeTableWord 24 0x08000 = some .rdbright ∧ decodeTableWord 24 0x180FE = some (.wrbright 0xFE) ∧
  decodeTableWord 24 0x08100 = some .rdctrl ∧ decodeTableWord 24 0x18101 = some (.wrctrl 0x01) ∧
  decodeTableWord 24 0x08200 = some .rdstatus ∧ decodeTableWord 24 0x182FF = some (.wrstatus 0xFF) ∧
  decodeTableWord 24 0x0FF00 = some (.rdnone 0xFF) ∧ decodeTableWord 24 0x104F7 = some (.wrnone 0x04 0xF7) ∧
  decodeTableWord 8 1 = some .tick ∧ decodeTableWord 8 0 = none

/-- R71, R75, R120: the BUS word of a table row, put at the head of the schedule, is the operation the next step runs. That a
word comes to run by `withFetchWord`, alone in its cycle, is the model's choice (log entry 2), as is the width by which
`decodeTableWord` tells the formats apart (log entry 11). -/
def Obligations.TableWordRunsAtTheNextStep : Prop :=
  ∀ (s : State) (w : BusWord),
    decodeTableWord 24 w.toNat = some (decodeBus w) ∧
    (w.getLsbD 16 = true →
      step (s.withFetchWord 24 w.toNat) = exec (decodeBus w) (armStage { s with rdata := 0 })) ∧
    (w.getLsbD 16 = false →
      ∃ t, exec (decodeBus w) { s with rdata := 0 } = .next t ∧
        step (s.withFetchWord 24 w.toNat) = .next (armStage t)) ∧
    step (s.withFetchWord 8 1) = exec .tick (armStage { s with rdata := 0 })

/-! ### Host reads (40_bus_registers.md) -/

/-- R92, R95, R98, R104, R106: each read operation drives the byte its rule gives, from every state, and changes no register:
the byte of cell p; the level, zero-extended; `EN` in bit 0 and 0 in every other bit; `{0, DIV[2:0], PH, POS[2:0]}`; 0x00. -/
def Obligations.ReadsDriveTheirByteAndChangeNoRegister : Prop :=
  ∀ s : State,
    (∀ p : Position, exec (.rdcell p) s = .next { s with rdata := s.cell[p] }) ∧
    (∃ t, exec .rdbright s = .next t ∧ t.rdata.toNat = s.bright.toNat ∧ t = { s with rdata := t.rdata }) ∧
    (∃ t, exec .rdctrl s = .next t ∧ (∀ k, t.rdata.getLsbD k = (decide (k = 0) && s.en)) ∧
      t = { s with rdata := t.rdata }) ∧
    (∃ t, exec .rdstatus s = .next t ∧ t.rdata.getLsbD 7 = false ∧ t.rdata.extractLsb' 4 3 = s.div ∧
      t.rdata.getLsbD 3 = s.ph ∧ t.rdata.extractLsb' 0 3 = s.pos ∧ t = { s with rdata := t.rdata }) ∧
    (∀ a : Byte, exec (.rdnone a) s = .next { s with rdata := 0x00 })

/-! ### Host writes (40_bus_registers.md) -/

/-- R93, R94: WRCELL stores any byte in its cell, and every other register, every other cell and every other address of the
register space is unchanged. -/
def Obligations.WriteCellStoresTheByteAndNothingElse : Prop :=
  ∀ (p : Position) (d : Byte) (s : State), ∃ t, exec (.wrcell p d) s = .next t ∧
    t.cell[p] = d ∧ (∀ q : Position, q ≠ p → t.cell[q] = s.cell[q]) ∧ t = { s with cell := t.cell } ∧
    ∀ a : Byte, busRead t a = if a.toNat = p.val then d else busRead s a

/-- R96: WRBRIGHT clamps the signed byte to 0..3, in the bits the rule gives and as an integer, and writes nothing else;
`DIV` is not written. -/
def Obligations.WriteBrightnessClampsTheSignedByte : Prop :=
  ∀ (d : Byte) (s : State), ∃ t, exec (.wrbright d) s = .next t ∧
    t.bright = (if d.getLsbD 7 then 0 else if d.extractLsb' 2 5 ≠ 0 then 3 else d.extractLsb' 0 2) ∧
    (t.bright.toNat : Int) = max 0 (min 3 d.toInt) ∧
    t = { s with bright := t.bright } ∧
    ∀ a : Byte, a ≠ 0x80 → busRead t a = busRead s a

/-- R99, R102: the register values after WRCTRL, for every value of the data byte: INIT writes `EN`, `POS`, `PH`, `DIV`; CLEAR
writes the cells, `SEG`, `DIGN`, `ARM`; bits 7..2 have no effect; nothing else is written. -/
def Obligations.WriteControlPerformsTheRequestedActions : Prop :=
  ∀ (d : Byte) (s : State),
    let init := d.getLsbD 0
    let clear := d.getLsbD 1
    exec (.wrctrl d) s = .next { s with
      en := s.en || init
      pos := if init then 0 else s.pos
      ph := s.ph && !init
      div := if init then (if s.bright.toNat = 3 then 4 else 2) else s.div
      cell := if clear then #v[0, 0, 0, 0] else s.cell
      seg := if clear then 0 else s.seg
      dign := if clear then 0b1111 else s.dign
      arm := s.arm && !clear }

/-- R105, R107: a write to STATUS or to an unmapped address changes nothing, whatever the byte; a cycle that carries one is
the same cycle without it. -/
def Obligations.IgnoredWritesChangeNothing : Prop :=
  (∀ (a d : Byte) (s : State), exec (.wrstatus d) s = .next s ∧ exec (.wrnone a d) s = .next s) ∧
  ∀ (s : State) (inp : CycleInput) (rest : List CycleInput),
    inp.sel = true → inp.we = true → inp.addr = 0x82 ∨ unmapped inp.addr = true →
    step { s with inputs := inp :: rest } = step { s with inputs := { inp with sel := false } :: rest }

/-- R57: repeating a host operation, with no tick between, leaves the state it left once. -/
def Obligations.RepeatedHostOperationChangesNothingMore : Prop :=
  ∀ (i : Instr) (s : State), i ≠ .tick → ∃ t, exec i s = .next t ∧ exec i t = .next t

/-! ### The tick (41_multiplex_tick.md) -/

/-- R123, R124: a processed tick at `POS` = i, i in 0..3, is DISPLAY(i), at every level. -/
def Obligations.TickAtPositionDisplaysIt : Prop :=
  ∀ (s : State) (i : Position), s.en = true → s.pos.toNat = i.val →
    ∃ t, exec .tick s = .next t ∧ t.pos.toNat = i.val + 1 ∧ (∀ k : Position, t.dnext.getLsbD k.val = decide (k ≠ i)) ∧
      t = { s with
        dign := 0b1111
        seg := s.cell[i]
        dnext := t.dnext
        arm := true
        div := if s.bright.toNat = 3 then 4 else 2
        pos := t.pos
        ph := false }

/-- R125: a processed tick that finds `POS` = 4 (or 5..7, which R25 treats as 4) at level 3 is DISPLAY(0): no pause. -/
def Obligations.TickAfterLastPositionSkipsPauseAtFullLevel : Prop :=
  ∀ s : State, s.en = true → 4 ≤ s.pos.toNat → s.bright.toNat = 3 →
    exec .tick s = .next { s with
      dign := 0b1111
      seg := s.cell[0]
      dnext := 0b1110
      arm := true
      div := 4
      pos := 1
      ph := false }

/-- R126: a processed tick that finds `POS` = 4 (or 5..7, which R25 treats as 4) at a level below 3 is PAUSE: the off class of
the level, and every line off. -/
def Obligations.TickAfterLastPositionPausesBelowFullLevel : Prop :=
  ∀ s : State, s.en = true → 4 ≤ s.pos.toNat → s.bright.toNat < 3 →
    ∃ t, exec .tick s = .next t ∧ t.div.toNat = 6 - s.bright.toNat ∧
      t = { s with
        dign := 0b1111
        div := t.div
        pos := 0
        ph := true
        arm := false }

/-- R122, R151: a tick with `EN` = 0 has no effect, as an operation and in a cycle of its own. -/
def Obligations.TickWhileDisabledIsDropped : Prop :=
  ∀ s : State, s.en = false → exec .tick s = .next s ∧
    ∀ (inp : CycleInput) (rest : List CycleInput), s.inputs = inp :: rest →
      step s = step { s with inputs := { inp with tick := false } :: rest }

/-- R25: a tick treats a `POS` of 5..7 as 4. -/
def Obligations.TickTreatsOutOfRangePositionAsFour : Prop :=
  ∀ (s : State) (q : BitVec 3), s.en = true → 5 ≤ q.toNat →
    exec .tick { s with pos := q } = exec .tick { s with pos := 4 }

/-- R132: a tick writes no cell and no level, and `PH`, `SEG` and `DIV` have no influence on what it leaves, save that a pause
keeps `SEG` and a dropped tick keeps all three. -/
def Obligations.TickReadsNeitherPhaseNorOutputs : Prop :=
  ∀ (s : State) (x : Bool) (y : Byte) (z : DivClass), ∃ t t',
    exec .tick s = .next t ∧ exec .tick { s with ph := x, seg := y, div := z } = .next t' ∧
    t.cell = s.cell ∧ t.bright = s.bright ∧
    (s.en = true → s.pos.toNat < 4 ∨ s.bright.toNat = 3 → t' = t) ∧
    (s.en = true → 4 ≤ s.pos.toNat → s.bright.toNat < 3 → t' = { t with seg := y }) ∧
    (s.en = false → t' = { t with ph := x, seg := y, div := z })

/-- R128: five processed ticks from `POS` = 0, with no reset and no INIT and the level below 3 throughout, whatever else the
host does and however they are spaced, perform DISPLAY(0), DISPLAY(1), DISPLAY(2), DISPLAY(3), PAUSE; at level 3 no tick
performs PAUSE. -/
def Obligations.MultiplexCycleIsFair : Prop :=
  (∀ (n : Nat) (s : State), s.en = true → s.pos = 0 → s.bright.toNat < 3 →
    (∀ inp ∈ s.inputs.take n, inp.rst = false ∧ inp.requestsInit = false ∧
      (inp.writes 0x80 = true → (levelOf inp.wdata).toNat < 3)) →
    (s.inputs.take n).countP (·.tick) = 5 →
    performed n s = [.display 0, .display 1, .display 2, .display 3, .pause]) ∧
  (∀ (n : Nat) (s : State), s.bright.toNat = 3 →
    (∀ inp ∈ s.inputs.take n, inp.rst = false ∧ (inp.writes 0x80 = true → (levelOf inp.wdata).toNat = 3)) →
    Phase.pause ∉ performed n s)

/-- R128 with the premise R161: where, besides, no CLEAR comes and ticks are at least 2 cycles apart, the five ticks assert the
line of each position exactly once. -/
def Obligations.SpacedMultiplexCycleAssertsEachPositionOnce : Prop :=
  ∀ (n : Nat) (s : State) (i : Position), s.en = true → s.pos = 0 → s.arm = false → s.bright.toNat < 3 →
    (∀ inp ∈ s.inputs.take n, inp.rst = false ∧ inp.requestsInit = false ∧ inp.requestsClear = false ∧
      (inp.writes 0x80 = true → (levelOf inp.wdata).toNat < 3)) →
    ticksSpaced (s.inputs.take n) = true → (s.inputs.take n).countP (·.tick) = 5 →
    assertions i n s = 1

/-! ### The cycle (41_multiplex_tick.md R120, R121; 70_reset_and_hazards.md) -/

/-- R73, R120: what one step runs, by the operations its cycle carries: the decoded operation's meaning, on the state the
cycle's order gives it. Past the end of the schedule a step is an idle cycle (the model's choice, log entry 1). -/
def Obligations.StepRunsTheDecodedOperations : Prop :=
  (∀ s : State, s.inputs = [] → step s = step { s with inputs := [CycleInput.idle] }) ∧
  ∀ (s : State) (inp : CycleInput) (rest : List CycleInput), s.inputs = inp :: rest → inp.rst = false →
    let s0 : State := { s with rdata := 0, inputs := rest }
    let i := decodeBus (busWord inp.we inp.addr inp.wdata)
    (inp.sel = false → inp.tick = false → step s = .next (armStage s0)) ∧
    (inp.sel = false → inp.tick = true → step s = exec .tick (armStage s0)) ∧
    (inp.sel = true → inp.we = true → inp.tick = false → step s = exec i (armStage s0)) ∧
    (inp.sel = true → inp.we = true → inp.tick = true →
      ∃ t, exec .tick (armStage s0) = .next t ∧ step s = exec i t) ∧
    (inp.sel = true → inp.we = false → inp.tick = false →
      ∃ t, exec i s0 = .next t ∧ step s = .next (armStage t)) ∧
    (inp.sel = true → inp.we = false → inp.tick = true →
      ∃ t, exec i s0 = .next t ∧ step s = exec .tick (armStage t))

/-- R90, R91, R120, R121: a cycle with `rst` = 0 is the arm stage, then the tick if `EN` = 1, then the host write by the address
map, with `rdata` read from the state before the edge. The right side uses no decoder and no meaning of an operation. -/
def Obligations.StepFollowsTheCycleOrder : Prop :=
  ∀ (s : State) (inp : CycleInput) (rest : List CycleInput), s.inputs = inp :: rest → inp.rst = false →
    let s1 : State := if s.arm then { s with dign := s.dnext, arm := false } else s
    let s2 : State := if inp.tick && s.en then tickEffect s1 else s1
    let s3 : State := if inp.sel && inp.we then busWrite s2 inp.addr inp.wdata else s2
    step s = .next { s3 with
      rdata := if inp.sel && !inp.we then busRead s inp.addr else 0x00
      inputs := rest }

/-- R170, in its register part: a cycle with `rst` = 1 leaves every register at its reset value, whatever the state, the tick
and the transaction. `rdata` is 0x00 where the cycle carries no read; where it carries one the spec gives two values, and it
is one of them: this holds on either reading (log entry 4). `BRIGHT` is RESET_BRIGHT. -/
def Obligations.ResetCycleLeavesResetValues : Prop :=
  ∀ (s : State) (inp : CycleInput) (rest : List CycleInput), s.inputs = inp :: rest → inp.rst = true →
    ∃ d, step s = .next { State.reset with rdata := d, inputs := rest } ∧
      ((inp.sel && !inp.we) = false → d = 0x00) ∧ (d = 0x00 ∨ d = busRead s inp.addr)

/-- R170, R172: the reset values and the outputs they give. `BRIGHT` is RESET_BRIGHT, 3 in this model. -/
def Obligations.ResetStateHoldsTheSpecValues : Prop :=
  (∀ p : Position, State.reset.cell[p] = 0x00) ∧ State.reset.bright = 3 ∧ State.reset.en = false ∧
  State.reset.pos = 0 ∧ State.reset.ph = false ∧ State.reset.div = 0 ∧ State.reset.seg = 0x00 ∧
  State.reset.dign = 0b1111 ∧ State.reset.arm = false ∧ State.reset.dnext = 0b1111 ∧
  segPort State.reset = 0x00 ∧ digPort State.reset = 0b1111 ∧ divSel State.reset = 0

/-- R150: every operation and every step answers a next state, from every state. -/
def Obligations.NothingEverStops : Prop :=
  (∀ (i : Instr) (s : State), ∃ t, exec i s = .next t) ∧ ∀ s : State, ∃ t, step s = .next t

/-- R165: any number of idle cycles leaves every register, once a pending assertion has taken place. -/
def Obligations.IdleCyclesKeepTheState : Prop :=
  ∀ (n : Nat) (s : State), s.inputs = List.replicate (n + 1) CycleInput.idle →
    runSteps (n + 1) s = .next { armStage s with rdata := 0x00, inputs := [] }

/-- R90, R58, with the read rules R92, R95, R98, R104, R106: in a cycle with `rst` = 0, whatever its tick, a read answers from
the state before the edge, by the value of its address; a cycle without a read has `rdata` 0x00. -/
def Obligations.ReadAnswersFromTheStateBeforeTheEdge : Prop :=
  ∀ (s : State) (inp : CycleInput) (rest : List CycleInput), s.inputs = inp :: rest → inp.rst = false →
    ∃ t, step s = .next t ∧
      (inp.isRead = false → t.rdata = 0x00) ∧
      (inp.isRead = true →
        (∀ h : inp.addr.toNat < 4, t.rdata = s.cell[inp.addr.toNat]) ∧
        (inp.addr = 0x80 → t.rdata.toNat = s.bright.toNat) ∧
        (inp.addr = 0x81 → t.rdata.toNat = s.en.toNat) ∧
        (inp.addr = 0x82 → t.rdata.toNat = 16 * s.div.toNat + 8 * s.ph.toNat + s.pos.toNat) ∧
        (unmapped inp.addr = true → t.rdata = 0x00))

/-- R58, R60, R175: a cell or a level written in one cycle is what a read returns in the next, whatever ticks come in either. -/
def Obligations.WrittenByteReadsBackInTheNextCycle : Prop :=
  ∀ (s : State) (a d : Byte) (k k' : Bool) (rest : List CycleInput),
    s.inputs = ⟨false, k, true, true, a, d⟩ :: ⟨false, k', true, false, a, 0⟩ :: rest →
    ∃ t, runSteps 2 s = .next t ∧ (a.toNat < 4 → t.rdata = d) ∧
      (a = 0x80 → (t.rdata.toNat : Int) = max 0 (min 3 d.toInt)) ∧ (unmapped a = true → t.rdata = 0x00)

/-- R101, R180: a CLEAR blanks the cells and the outputs at the end of its cycle, cancels a pending assertion, and overrides a
tick of the same cycle. -/
def Obligations.ClearBlanksTheOutputsInItsCycle : Prop :=
  ∀ (s : State) (inp : CycleInput) (rest : List CycleInput),
    s.inputs = inp :: rest → inp.rst = false → inp.requestsClear = true →
    ∃ t, step s = .next t ∧ (∀ p : Position, t.cell[p] = 0x00) ∧ t.seg = 0x00 ∧ t.dign = 0b1111 ∧ t.arm = false ∧
      t.bright = s.bright ∧ ∀ i x, lit t i x = false

/-! ### Whole-machine rules (10_state.md) -/

/-- R20, the column "written by", with R25 to R33: in a cycle with `rst` = 0 each register changes only by its own writers,
`SEG` and `DNEXT` by no tick but a display tick (R31); `EN` is not cleared; and a class newly written to `DIV` is 2, 4, 5 or
6 (R29, R30). -/
def Obligations.RegistersChangeOnlyByTheirWriters : Prop :=
  ∀ (s t : State) (inp : CycleInput) (rest : List CycleInput),
    s.inputs = inp :: rest → inp.rst = false → step s = .next t →
    (∀ p : Position, t.cell[p] ≠ s.cell[p] →
      inp.writes (BitVec.ofNat 8 p.val) = true ∨ inp.requestsClear = true) ∧
    (t.bright ≠ s.bright → inp.writes 0x80 = true) ∧
    (t.en ≠ s.en → inp.requestsInit = true) ∧ (s.en = true → t.en = true) ∧
    (t.pos ≠ s.pos ∨ t.ph ≠ s.ph ∨ t.div ≠ s.div → processesTick inp s = true ∨ inp.requestsInit = true) ∧
    (t.div ≠ s.div → t.div = 2 ∨ t.div = 4 ∨ t.div = 5 ∨ t.div = 6) ∧
    (t.seg ≠ s.seg → (processesTick inp s = true ∧ ∃ i, phaseOf s = .display i) ∨ inp.requestsClear = true) ∧
    (t.dign ≠ s.dign ∨ t.arm ≠ s.arm → s.arm = true ∨ processesTick inp s = true ∨ inp.requestsClear = true) ∧
    (t.dnext ≠ s.dnext → processesTick inp s = true ∧ ∃ i, phaseOf s = .display i) ∧
    t.inputs = rest

/-- R34 holds at reset. -/
def Obligations.ResetStateSatisfiesInvariant : Prop := SeqInv State.reset

/-- Every step keeps the invariant of R34, from every state that has it. -/
def Obligations.EveryStepKeepsInvariant : Prop :=
  ∀ s t : State, SeqInv s → step s = .next t → SeqInv t

/-- R34: every state reachable from reset, under any schedule of inputs, satisfies the invariant. -/
def Obligations.EveryReachableStateSatisfiesInvariant : Prop :=
  ∀ (n : Nat) (s t : State), startsAtReset s = true → runSteps n s = .next t → SeqInv t

/-- R171: a run that starts at the reset state, under whatever schedule, is the run of its steps; any other is refused. That
the start also has the model's own field `rdata` at 0x00, and that a run and not a step refuses, is the model's choice
(log entry 8). -/
def Obligations.RunNotFromResetIsRefused : Prop :=
  ∀ (n : Nat) (s : State),
    (s = { State.reset with inputs := s.inputs } → runFromReset n s = runSteps n s) ∧
    (s ≠ { State.reset with inputs := s.inputs } → runFromReset n s = .refused .runNotFromReset)

/-- R172, R173: from reset, whatever ticks and host operations come, as long as no INIT is performed the timer stays stopped
and the display dark. -/
def Obligations.DisplayStaysDarkUntilInit : Prop :=
  ∀ (n : Nat) (s t : State), startsAtReset s = true →
    (∀ inp ∈ s.inputs.take n, inp.requestsInit = true → inp.rst = true) → runSteps n s = .next t →
    t.en = false ∧ t.pos = 0 ∧ t.ph = false ∧ divSel t = 0 ∧ digPort t = 0b1111 ∧ ∀ i x, lit t i x = false

/-- R123: the pattern on the segment bus changes only at an edge after which every digit line is deasserted, from every state:
no ghost of one digit on another. -/
def Obligations.SegmentBusChangesOnlyWithLinesOff : Prop :=
  ∀ s t : State, step s = .next t → t.seg ≠ s.seg → t.dign = 0b1111

/-- R32, R33: the lines never pass from one digit to another in one step; between two digits every line is off. -/
def Obligations.DigitLinesBreakBeforeMake : Prop :=
  ∀ s t : State, SeqInv s → step s = .next t → s.dign ≠ 0b1111 → t.dign ≠ 0b1111 → t.dign = s.dign

/-! ### Display timelines (41_multiplex_tick.md R130, R131) -/

/-- R130: after a display tick of position i the pattern is on the bus with the lines off; from the next edge on, while no
tick, CLEAR or reset comes, the line of i alone is low and the pattern stands; `DIV` stands as long as no INIT comes. -/
def Obligations.DisplayTickLightsItsDigitFromTheNextEdge : Prop :=
  ∀ (s : State) (i : Position) (inp : CycleInput) (quiet rest : List CycleInput),
    s.inputs = inp :: (quiet ++ rest) → processesTick inp s = true → inp.writes 0x81 = false → phaseOf s = .display i →
    (∀ q ∈ quiet, q.rst = false ∧ q.tick = false ∧ q.requestsClear = false) →
    ∃ t u, step s = .next t ∧ runSteps quiet.length t = .next u ∧
      t.seg = s.cell[i] ∧ t.dign = 0b1111 ∧ t.div = onDiv s.bright ∧
      u.seg = s.cell[i] ∧ (quiet ≠ [] → ∀ k : Position, selected u k = decide (k = i)) ∧
      ((∀ q ∈ quiet, q.requestsInit = false) → u.div = onDiv s.bright)

/-- R130: after a pause tick, while no tick, CLEAR or reset comes, every line is off and the bus keeps its pattern; `DIV` is the
off class of the level as long as no INIT comes. -/
def Obligations.PauseTickDarkensUntilTheNextTick : Prop :=
  ∀ (s : State) (inp : CycleInput) (quiet rest : List CycleInput),
    s.inputs = inp :: (quiet ++ rest) → processesTick inp s = true → inp.writes 0x81 = false → phaseOf s = .pause →
    (∀ q ∈ quiet, q.rst = false ∧ q.tick = false ∧ q.requestsClear = false) →
    ∃ u, runSteps (quiet.length + 1) s = .next u ∧ u.dign = 0b1111 ∧ u.seg = s.seg ∧
      ((∀ q ∈ quiet, q.requestsInit = false) → u.div = offDiv s.bright ∧ u.ph = true)

/-- R131: of two processed ticks at consecutive edges, the first one's digit is shown at no edge: every line is off after both,
and an assertion still pending after the second is the second tick's own. -/
def Obligations.BackToBackTickSuppressesTheDigit : Prop :=
  ∀ (s : State) (a b : CycleInput) (rest : List CycleInput),
    s.inputs = a :: b :: rest → processesTick a s = true → b.rst = false → b.tick = true →
    ∃ t u, step s = .next t ∧ step t = .next u ∧ t.dign = 0b1111 ∧ u.dign = 0b1111 ∧
      (u.arm = true → ∃ i, phaseOf t = .display i ∧ u.dnext = selectLine i)

/-- R23, R24: two edges after a display tick of position i, the lit segments are those of the pattern of cell i, at position i,
by the bit assignment F,A,E,D,Dp,C,G,B of bits 7..0, and no segment of another position. -/
def Obligations.LitSegmentsAreThePatternBits : Prop :=
  ∀ (s : State) (i : Position) (rest : List CycleInput),
    s.inputs = .tickOnly :: .idle :: rest → s.en = true → phaseOf s = .display i →
    ∃ u, runSteps 2 s = .next u ∧ ∀ k : Position,
      lit u k .f = (decide (k = i) && s.cell[i].getLsbD 7) ∧ lit u k .a = (decide (k = i) && s.cell[i].getLsbD 6) ∧
      lit u k .e = (decide (k = i) && s.cell[i].getLsbD 5) ∧ lit u k .d = (decide (k = i) && s.cell[i].getLsbD 4) ∧
      lit u k .dp = (decide (k = i) && s.cell[i].getLsbD 3) ∧ lit u k .c = (decide (k = i) && s.cell[i].getLsbD 2) ∧
      lit u k .g = (decide (k = i) && s.cell[i].getLsbD 1) ∧ lit u k .b = (decide (k = i) && s.cell[i].getLsbD 0)

/-! ### The timer's side (60_exceptions.md R160, R161; 70_reset_and_hazards.md R182) -/

/-- R160: with a timer whose ticks come only when its contract lets them no tick is ever dropped, whatever the host does: every
tick finds `EN` = 1. The form of the contract is the model's reading (log entry 13). -/
def Obligations.TimerInContractDropsNoTick : Prop :=
  ∀ (period : DivClass → Nat) (n k : Nat) (s t : State),
    SeqInv s → TimerSpacing period (timerTrace n s) → k < n → runSteps k s = .next t →
    (nextInput t).tick = true → t.en = true

/-- R182, first point: a display phase lasts the period of the on class, and its digit is lit for all but `GAP` of its
cycles. The form of the spacing is the model's reading (log entry 13), and a cycle counts as lit by the line after its edge
(log entry 20). -/
def Obligations.DisplayPhaseLastsOneOnPeriod : Prop :=
  ∀ (period : DivClass → Nat) (s : State) (i : Position) (first last : CycleInput) (mid rest : List CycleInput),
    s.inputs = first :: (mid ++ last :: rest) → processesTick first s = true → phaseOf s = .display i →
    first.leavesSequencer = true → (∀ q ∈ mid, q.tick = false ∧ q.leavesSequencer = true) → last.tick = true →
    TimerSpacing period (timerTrace (mid.length + 2) s) →
    mid.length + 1 = period (onDiv s.bright) ∧
    litCycles i (mid.length + 1) s = period (onDiv s.bright) - Config.gap

/-- R182: at a level below 3, a multiplex cycle of four display phases of `pOn` cycles and a pause of `pOff` cycles lights each
digit for `pOn - GAP` cycles and some digit for `4*(pOn - GAP)` of its `4*pOn + pOff` cycles; at level 3, four display phases
of `pOn` cycles light some digit for `4*(pOn - GAP)` of `4*pOn` cycles. `pOn` and `pOff` stand for the OPEN TICK_PERIOD. A
cycle counts as lit by the lines after its edge (log entry 20). -/
def Obligations.DutyCycleOfAMultiplexCycle : Prop :=
  (∀ (s : State) (pOn pOff : Nat) (d0 d1 d2 d3 z rest : List CycleInput),
    s.en = true → s.pos = 0 → s.bright.toNat < 3 →
    isPhase pOn d0 = true → isPhase pOn d1 = true → isPhase pOn d2 = true → isPhase pOn d3 = true →
    isPhase pOff z = true → s.inputs = d0 ++ d1 ++ d2 ++ d3 ++ z ++ rest →
    (∀ i : Position, litCycles i (4 * pOn + pOff) s = pOn - Config.gap) ∧
    anyLitCycles (4 * pOn + pOff) s = 4 * (pOn - Config.gap) ∧
    ∃ t, runSteps (4 * pOn + pOff) s = .next t ∧ t.pos = 0 ∧ t.arm = false ∧ t.inputs = rest) ∧
  (∀ (s : State) (pOn : Nat) (d0 d1 d2 d3 rest : List CycleInput),
    s.en = true → s.pos = 0 ∨ 4 ≤ s.pos.toNat → s.bright.toNat = 3 →
    isPhase pOn d0 = true → isPhase pOn d1 = true → isPhase pOn d2 = true → isPhase pOn d3 = true →
    s.inputs = d0 ++ d1 ++ d2 ++ d3 ++ rest →
    (∀ i : Position, litCycles i (4 * pOn) s = pOn - Config.gap) ∧
    anyLitCycles (4 * pOn) s = 4 * (pOn - Config.gap) ∧
    ∃ t, runSteps (4 * pOn) s = .next t ∧ t.pos = 4 ∧ t.inputs = rest)

/-! ### The host's software operations (30_encoding.md R80) -/

/-- R80, R95, R96: `set_brightness v` then `get_brightness` gives `clamp(v, 0, 3)`, for every integer `v`. -/
def Obligations.SetThenGetBrightnessClampsEveryInteger : Prop :=
  ∀ (v : Int) (s : State) (rest : List CycleInput),
    s.inputs = (PseudoOp.setBrightness v).expand ++ PseudoOp.getBrightness.expand ++ rest →
    ∃ t, runSteps 2 s = .next t ∧ (t.rdata.toNat : Int) = max 0 (min 3 v) ∧ (t.bright.toNat : Int) = max 0 (min 3 v)

/-- R80, R107: `write_cell p, v` writes cell p where p is a position and changes no cell for any other integer p. -/
def Obligations.WriteCellIgnoresOutOfRangePositions : Prop :=
  ∀ (p : Int) (v : Byte) (s : State) (rest : List CycleInput),
    s.inputs = (PseudoOp.writeCell p v).expand ++ rest →
    ∃ t, runSteps (PseudoOp.writeCell p v).expand.length s = .next t ∧
      ∀ q : Position, t.cell[q] = if (q.val : Int) = p then v else s.cell[q]

/-- R80: `write_all` leaves the four bytes in the four cells, in whatever order its writes are issued and whatever ticks come
with them. -/
def Obligations.WriteAllHasOneFinalBufferInAnyOrder : Prop :=
  ∀ (a b c d : Byte) (l rest : List CycleInput) (s : State),
    (l.map fun inp => { inp with tick := false }).Perm (PseudoOp.writeAll a b c d).expand → s.inputs = l ++ rest →
    ∃ t, runSteps 4 s = .next t ∧ t.cell = #v[a, b, c, d] ∧ t.bright = s.bright

/-! ### A read beside a reset, and the whole of the timer's contract -/

/-- R90, R120, R153: a read in a cycle with `rst` = 1 returns the value from before the reset, and the registers take their
reset values. R170 says that `rdata` is 0x00 in such a cycle; taking the other three rules' side is the model's choice
(log entry 4). -/
def Obligations.ReadBesideResetReturnsTheValueFromBefore : Prop :=
  ∀ (s : State) (inp : CycleInput) (rest : List CycleInput),
    s.inputs = inp :: rest → inp.rst = true → inp.isRead = true →
    step s = .next { State.reset with rdata := busRead s inp.addr, inputs := rest }

/-- R160, R174: once enabled, a timer that keeps its contract produces a tick within the longest wait of the class, and the
block processes it, as long as no reset and no INIT comes. The two parts of TICK_PERIOD are the model's reading
(log entry 13). -/
def Obligations.TimerInContractKeepsTheSequenceRunning : Prop :=
  ∀ (period longest : DivClass → Nat) (s : State),
    SeqInv s → s.en = true → TimerContract period longest (timerTrace (longest s.div) s) →
    (∀ inp ∈ s.inputs.take (longest s.div), inp.rst = false ∧ inp.requestsInit = false) →
    performed (longest s.div) s ≠ []

/-- R160, R182: of two multiplex cycles at levels `b` < `b'` below 3, the one at the lower level lights some digit for as many
cycles and lasts longer, whatever the periods, given their order. -/
def Obligations.LowerLevelIsDimmer : Prop :=
  ∀ (period : DivClass → Nat) (s s' : State) (d0 d1 d2 d3 z rest d0' d1' d2' d3' z' rest' : List CycleInput),
    PeriodsOrdered period → s.bright.toNat < s'.bright.toNat → s'.bright.toNat < 3 →
    s.en = true → s.pos = 0 → s'.en = true → s'.pos = 0 →
    (∀ d ∈ [d0, d1, d2, d3], isPhase (period (onDiv s.bright)) d = true) →
    isPhase (period (offDiv s.bright)) z = true → s.inputs = d0 ++ d1 ++ d2 ++ d3 ++ z ++ rest →
    (∀ d ∈ [d0', d1', d2', d3'], isPhase (period (onDiv s'.bright)) d = true) →
    isPhase (period (offDiv s'.bright)) z' = true → s'.inputs = d0' ++ d1' ++ d2' ++ d3' ++ z' ++ rest' →
    anyLitCycles (d0 ++ d1 ++ d2 ++ d3 ++ z).length s = anyLitCycles (d0' ++ d1' ++ d2' ++ d3' ++ z').length s' ∧
    (d0' ++ d1' ++ d2' ++ d3' ++ z').length < (d0 ++ d1 ++ d2 ++ d3 ++ z).length
end

