-- ==== Sys2Proof/Laws/Decode.lean ====
section
/-! SUPPORT. What the decoder reads from an address and from the word a cycle's bus pins carry. -/

namespace Sys2Proof

theorem isCellAddr_eq (a : Byte) : isCellAddr a = decide (a.toNat < 4) := by
  revert a; decide +revert

theorem cellIndex_val (a : Byte) : (cellIndex a).val = a.toNat % 4 := by
  simp [cellIndex]

/-- The cell an address below 4 selects is its own value. -/
theorem cellIndex_of_lt {a : Byte} (h : a.toNat < 4) : cellIndex a = ⟨a.toNat, h⟩ := by
  apply Fin.ext; rw [cellIndex_val]; exact Nat.mod_eq_of_lt h

/-- A BUS word bit by bit: `wdata` in 7..0, `addr` in 15..8, `we` in 16. -/
theorem busWord_getLsbD (we : Bool) (a d : Byte) (k : Nat) :
    (busWord we a d).getLsbD k =
      if k < 8 then d.getLsbD k else if k < 16 then a.getLsbD (k - 8) else (decide (k = 16) && we) := by
  show BitVec.getLsbD (w := 1 + 8 + 8) (BitVec.ofBool we ++ a ++ d) k = _
  rw [BitVec.getLsbD_append, BitVec.getLsbD_append]
  by_cases h8 : k < 8
  · simp [h8]
  · by_cases h16 : k < 16
    · simp [h8, h16, show k - 8 < 8 by omega]
    · simp only [h8, h16, show ¬ k - 8 < 8 by omega, BitVec.getLsbD_ofBool, ite_false]
      congr 1
      rw [Bool.eq_iff_iff]; simp; omega

@[simp] theorem busWe_busWord (we : Bool) (a d : Byte) : busWe (busWord we a d) = we := by
  unfold busWe; rw [busWord_getLsbD]; simp

@[simp] theorem busAddr_busWord (we : Bool) (a d : Byte) : busAddr (busWord we a d) = a := by
  apply BitVec.eq_of_getLsbD_eq
  intro k hk
  simp [busAddr, busWord_getLsbD, hk, show ¬ 8 + k < 8 by omega, show 8 + k < 16 by omega]

@[simp] theorem busData_busWord (we : Bool) (a d : Byte) : busData (busWord we a d) = d := by
  apply BitVec.eq_of_getLsbD_eq
  intro k hk
  simp [busData, busWord_getLsbD, hk]

/-- A BUS word is put together from its own fields. -/
theorem busWord_fields (w : BusWord) : busWord (busWe w) (busAddr w) (busData w) = w := by
  apply BitVec.eq_of_getLsbD_eq
  intro k hk
  rw [busWord_getLsbD]
  split
  · simp [busData, *]
  · split
    · simp [busAddr, show k - 8 < 8 by omega, show 8 + (k - 8) = k by omega]
    · have : k = 16 := by omega
      simp [busWe, this]

/-- The operation of a word assembled from its pins. -/
theorem decodeBus_busWord (we : Bool) (a d : Byte) :
    decodeBus (busWord we a d) = if we then decodeWrite a d else decodeRead a := by
  simp [decodeBus]

/-- An address is a register's own number exactly when its value is. -/
theorem addr_eq_iff (a : Byte) {k : Nat} (hk : k < 256) : a = BitVec.ofNat 8 k ↔ a.toNat = k := by
  rw [← BitVec.toNat_inj, BitVec.toNat_ofNat, Nat.mod_eq_of_lt (by omega)]

/-- The write decoder by the value of the address. -/
theorem decodeWrite_eq (a d : Byte) :
    decodeWrite a d =
      if h : a.toNat < 4 then .wrcell ⟨a.toNat, h⟩ d
      else if a.toNat = 0x80 then .wrbright d
      else if a.toNat = 0x81 then .wrctrl d
      else if a.toNat = 0x82 then .wrstatus d
      else .wrnone a d := by
  unfold decodeWrite
  rw [isCellAddr_eq]
  by_cases h : a.toNat < 4
  · simp [h, cellIndex_of_lt h]
  · simp only [h, decide_false, Bool.false_eq_true, if_false, dif_neg, not_false_eq_true]
    rw [show (0x80 : Byte) = BitVec.ofNat 8 0x80 from rfl, show (0x81 : Byte) = BitVec.ofNat 8 0x81 from rfl,
      show (0x82 : Byte) = BitVec.ofNat 8 0x82 from rfl]
    simp only [addr_eq_iff a (show 0x80 < 256 by decide), addr_eq_iff a (show 0x81 < 256 by decide),
      addr_eq_iff a (show 0x82 < 256 by decide)]

/-- The read decoder by the value of the address. -/
theorem decodeRead_eq (a : Byte) :
    decodeRead a =
      if h : a.toNat < 4 then .rdcell ⟨a.toNat, h⟩
      else if a.toNat = 0x80 then .rdbright
      else if a.toNat = 0x81 then .rdctrl
      else if a.toNat = 0x82 then .rdstatus
      else .rdnone a := by
  unfold decodeRead
  rw [isCellAddr_eq]
  by_cases h : a.toNat < 4
  · simp [h, cellIndex_of_lt h]
  · simp only [h, decide_false, Bool.false_eq_true, if_false, dif_neg, not_false_eq_true]
    rw [show (0x80 : Byte) = BitVec.ofNat 8 0x80 from rfl, show (0x81 : Byte) = BitVec.ofNat 8 0x81 from rfl,
      show (0x82 : Byte) = BitVec.ofNat 8 0x82 from rfl]
    simp only [addr_eq_iff a (show 0x80 < 256 by decide), addr_eq_iff a (show 0x81 < 256 by decide),
      addr_eq_iff a (show 0x82 < 256 by decide)]

/-- The unmapped addresses are those of no register. -/
theorem unmapped_iff (a : Byte) :
    unmapped a = true ↔ ¬ a.toNat < 4 ∧ a.toNat ≠ 0x80 ∧ a.toNat ≠ 0x81 ∧ a.toNat ≠ 0x82 := by
  have := a.isLt
  simp [unmapped]; omega

theorem cellAddr_toNat (p : Position) : (cellAddr p).toNat = p.val := by revert p; decide

namespace Machine

theorem tickOp_eq (inp : CycleInput) : inp.tickOp = if inp.tick then some .tick else none := by
  cases h : inp.tick <;> simp [CycleInput.tickOp, h, decode] <;> rfl

theorem readOp_eq (inp : CycleInput) :
    inp.readOp = if inp.sel && !inp.we then some (decodeRead inp.addr) else none := by
  cases h : inp.sel <;> cases h' : inp.we <;>
    (simp [CycleInput.readOp, CycleInput.word, h, h', decode, decodeBus_busWord]; try rfl)

theorem writeOp_eq (inp : CycleInput) :
    inp.writeOp = if inp.sel && inp.we then some (decodeWrite inp.addr inp.wdata) else none := by
  cases h : inp.sel <;> cases h' : inp.we <;>
    (simp [CycleInput.writeOp, CycleInput.word, h, h', decode, decodeBus_busWord]; try rfl)

end Machine

end Sys2Proof
end

