-- ==== Sys2Proof/Laws/State.lean ====
section
/-! SUPPORT. What each named update of the state does to each field. -/

namespace Sys2Proof.Machine

@[simp] theorem State.setRdata_cell (s : State) (d : Byte) : (s.setRdata d).cell = s.cell := rfl
@[simp] theorem State.setRdata_bright (s : State) (d : Byte) : (s.setRdata d).bright = s.bright := rfl
@[simp] theorem State.setRdata_en (s : State) (d : Byte) : (s.setRdata d).en = s.en := rfl
@[simp] theorem State.setRdata_pos (s : State) (d : Byte) : (s.setRdata d).pos = s.pos := rfl
@[simp] theorem State.setRdata_ph (s : State) (d : Byte) : (s.setRdata d).ph = s.ph := rfl
@[simp] theorem State.setRdata_div (s : State) (d : Byte) : (s.setRdata d).div = s.div := rfl
@[simp] theorem State.setRdata_seg (s : State) (d : Byte) : (s.setRdata d).seg = s.seg := rfl
@[simp] theorem State.setRdata_dign (s : State) (d : Byte) : (s.setRdata d).dign = s.dign := rfl
@[simp] theorem State.setRdata_arm (s : State) (d : Byte) : (s.setRdata d).arm = s.arm := rfl
@[simp] theorem State.setRdata_dnext (s : State) (d : Byte) : (s.setRdata d).dnext = s.dnext := rfl
@[simp] theorem State.setRdata_rdata (s : State) (d : Byte) : (s.setRdata d).rdata = d := rfl
@[simp] theorem State.setRdata_inputs (s : State) (d : Byte) : (s.setRdata d).inputs = s.inputs := rfl

@[simp] theorem State.setCell_cell (s : State) (p : Position) (d : Byte) : (s.setCell p d).cell = s.cell.set p d := rfl
@[simp] theorem State.setCell_bright (s : State) (p : Position) (d : Byte) : (s.setCell p d).bright = s.bright := rfl
@[simp] theorem State.setCell_en (s : State) (p : Position) (d : Byte) : (s.setCell p d).en = s.en := rfl
@[simp] theorem State.setCell_pos (s : State) (p : Position) (d : Byte) : (s.setCell p d).pos = s.pos := rfl
@[simp] theorem State.setCell_ph (s : State) (p : Position) (d : Byte) : (s.setCell p d).ph = s.ph := rfl
@[simp] theorem State.setCell_div (s : State) (p : Position) (d : Byte) : (s.setCell p d).div = s.div := rfl
@[simp] theorem State.setCell_seg (s : State) (p : Position) (d : Byte) : (s.setCell p d).seg = s.seg := rfl
@[simp] theorem State.setCell_dign (s : State) (p : Position) (d : Byte) : (s.setCell p d).dign = s.dign := rfl
@[simp] theorem State.setCell_arm (s : State) (p : Position) (d : Byte) : (s.setCell p d).arm = s.arm := rfl
@[simp] theorem State.setCell_dnext (s : State) (p : Position) (d : Byte) : (s.setCell p d).dnext = s.dnext := rfl
@[simp] theorem State.setCell_rdata (s : State) (p : Position) (d : Byte) : (s.setCell p d).rdata = s.rdata := rfl
@[simp] theorem State.setCell_inputs (s : State) (p : Position) (d : Byte) : (s.setCell p d).inputs = s.inputs := rfl

@[simp] theorem State.setBright_cell (s : State) (b : Level) : (s.setBright b).cell = s.cell := rfl
@[simp] theorem State.setBright_bright (s : State) (b : Level) : (s.setBright b).bright = b := rfl
@[simp] theorem State.setBright_en (s : State) (b : Level) : (s.setBright b).en = s.en := rfl
@[simp] theorem State.setBright_pos (s : State) (b : Level) : (s.setBright b).pos = s.pos := rfl
@[simp] theorem State.setBright_ph (s : State) (b : Level) : (s.setBright b).ph = s.ph := rfl
@[simp] theorem State.setBright_div (s : State) (b : Level) : (s.setBright b).div = s.div := rfl
@[simp] theorem State.setBright_seg (s : State) (b : Level) : (s.setBright b).seg = s.seg := rfl
@[simp] theorem State.setBright_dign (s : State) (b : Level) : (s.setBright b).dign = s.dign := rfl
@[simp] theorem State.setBright_arm (s : State) (b : Level) : (s.setBright b).arm = s.arm := rfl
@[simp] theorem State.setBright_dnext (s : State) (b : Level) : (s.setBright b).dnext = s.dnext := rfl
@[simp] theorem State.setBright_rdata (s : State) (b : Level) : (s.setBright b).rdata = s.rdata := rfl
@[simp] theorem State.setBright_inputs (s : State) (b : Level) : (s.setBright b).inputs = s.inputs := rfl

@[simp] theorem State.deassert_cell (s : State) : s.deassert.cell = s.cell := rfl
@[simp] theorem State.deassert_bright (s : State) : s.deassert.bright = s.bright := rfl
@[simp] theorem State.deassert_en (s : State) : s.deassert.en = s.en := rfl
@[simp] theorem State.deassert_pos (s : State) : s.deassert.pos = s.pos := rfl
@[simp] theorem State.deassert_ph (s : State) : s.deassert.ph = s.ph := rfl
@[simp] theorem State.deassert_div (s : State) : s.deassert.div = s.div := rfl
@[simp] theorem State.deassert_seg (s : State) : s.deassert.seg = s.seg := rfl
@[simp] theorem State.deassert_dign (s : State) : s.deassert.dign = 0b1111 := rfl
@[simp] theorem State.deassert_arm (s : State) : s.deassert.arm = s.arm := rfl
@[simp] theorem State.deassert_dnext (s : State) : s.deassert.dnext = s.dnext := rfl
@[simp] theorem State.deassert_rdata (s : State) : s.deassert.rdata = s.rdata := rfl
@[simp] theorem State.deassert_inputs (s : State) : s.deassert.inputs = s.inputs := rfl

@[simp] theorem displayStep_cell (i : Position) (b : Level) (s : State) : (displayStep i b s).cell = s.cell := rfl
@[simp] theorem displayStep_bright (i : Position) (b : Level) (s : State) : (displayStep i b s).bright = s.bright := rfl
@[simp] theorem displayStep_en (i : Position) (b : Level) (s : State) : (displayStep i b s).en = s.en := rfl
@[simp] theorem displayStep_pos (i : Position) (b : Level) (s : State) : (displayStep i b s).pos = BitVec.ofNat 3 (i.val + 1) := rfl
@[simp] theorem displayStep_ph (i : Position) (b : Level) (s : State) : (displayStep i b s).ph = false := rfl
@[simp] theorem displayStep_div (i : Position) (b : Level) (s : State) : (displayStep i b s).div = onDiv b := rfl
@[simp] theorem displayStep_seg (i : Position) (b : Level) (s : State) : (displayStep i b s).seg = s.cell[i] := rfl
@[simp] theorem displayStep_dign (i : Position) (b : Level) (s : State) : (displayStep i b s).dign = s.dign := rfl
@[simp] theorem displayStep_arm (i : Position) (b : Level) (s : State) : (displayStep i b s).arm = true := rfl
@[simp] theorem displayStep_dnext (i : Position) (b : Level) (s : State) : (displayStep i b s).dnext = selectLine i := rfl
@[simp] theorem displayStep_rdata (i : Position) (b : Level) (s : State) : (displayStep i b s).rdata = s.rdata := rfl
@[simp] theorem displayStep_inputs (i : Position) (b : Level) (s : State) : (displayStep i b s).inputs = s.inputs := rfl

@[simp] theorem pauseStep_cell (b : Level) (s : State) : (pauseStep b s).cell = s.cell := rfl
@[simp] theorem pauseStep_bright (b : Level) (s : State) : (pauseStep b s).bright = s.bright := rfl
@[simp] theorem pauseStep_en (b : Level) (s : State) : (pauseStep b s).en = s.en := rfl
@[simp] theorem pauseStep_pos (b : Level) (s : State) : (pauseStep b s).pos = 0 := rfl
@[simp] theorem pauseStep_ph (b : Level) (s : State) : (pauseStep b s).ph = true := rfl
@[simp] theorem pauseStep_div (b : Level) (s : State) : (pauseStep b s).div = offDiv b := rfl
@[simp] theorem pauseStep_seg (b : Level) (s : State) : (pauseStep b s).seg = s.seg := rfl
@[simp] theorem pauseStep_dign (b : Level) (s : State) : (pauseStep b s).dign = s.dign := rfl
@[simp] theorem pauseStep_arm (b : Level) (s : State) : (pauseStep b s).arm = false := rfl
@[simp] theorem pauseStep_dnext (b : Level) (s : State) : (pauseStep b s).dnext = s.dnext := rfl
@[simp] theorem pauseStep_rdata (b : Level) (s : State) : (pauseStep b s).rdata = s.rdata := rfl
@[simp] theorem pauseStep_inputs (b : Level) (s : State) : (pauseStep b s).inputs = s.inputs := rfl

@[simp] theorem initAction_cell (s : State) : (initAction s).cell = s.cell := rfl
@[simp] theorem initAction_bright (s : State) : (initAction s).bright = s.bright := rfl
@[simp] theorem initAction_en (s : State) : (initAction s).en = true := rfl
@[simp] theorem initAction_pos (s : State) : (initAction s).pos = 0 := rfl
@[simp] theorem initAction_ph (s : State) : (initAction s).ph = false := rfl
@[simp] theorem initAction_div (s : State) : (initAction s).div = onDiv s.bright := rfl
@[simp] theorem initAction_seg (s : State) : (initAction s).seg = s.seg := rfl
@[simp] theorem initAction_dign (s : State) : (initAction s).dign = s.dign := rfl
@[simp] theorem initAction_arm (s : State) : (initAction s).arm = s.arm := rfl
@[simp] theorem initAction_dnext (s : State) : (initAction s).dnext = s.dnext := rfl
@[simp] theorem initAction_rdata (s : State) : (initAction s).rdata = s.rdata := rfl
@[simp] theorem initAction_inputs (s : State) : (initAction s).inputs = s.inputs := rfl

@[simp] theorem clearAction_cell (s : State) : (clearAction s).cell = #v[0x00, 0x00, 0x00, 0x00] := rfl
@[simp] theorem clearAction_bright (s : State) : (clearAction s).bright = s.bright := rfl
@[simp] theorem clearAction_en (s : State) : (clearAction s).en = s.en := rfl
@[simp] theorem clearAction_pos (s : State) : (clearAction s).pos = s.pos := rfl
@[simp] theorem clearAction_ph (s : State) : (clearAction s).ph = s.ph := rfl
@[simp] theorem clearAction_div (s : State) : (clearAction s).div = s.div := rfl
@[simp] theorem clearAction_seg (s : State) : (clearAction s).seg = 0x00 := rfl
@[simp] theorem clearAction_dign (s : State) : (clearAction s).dign = 0b1111 := rfl
@[simp] theorem clearAction_arm (s : State) : (clearAction s).arm = false := rfl
@[simp] theorem clearAction_dnext (s : State) : (clearAction s).dnext = s.dnext := rfl
@[simp] theorem clearAction_rdata (s : State) : (clearAction s).rdata = s.rdata := rfl
@[simp] theorem clearAction_inputs (s : State) : (clearAction s).inputs = s.inputs := rfl

@[simp] theorem beginCycle_cell (s : State) : (beginCycle s).cell = s.cell := rfl
@[simp] theorem beginCycle_bright (s : State) : (beginCycle s).bright = s.bright := rfl
@[simp] theorem beginCycle_en (s : State) : (beginCycle s).en = s.en := rfl
@[simp] theorem beginCycle_pos (s : State) : (beginCycle s).pos = s.pos := rfl
@[simp] theorem beginCycle_ph (s : State) : (beginCycle s).ph = s.ph := rfl
@[simp] theorem beginCycle_div (s : State) : (beginCycle s).div = s.div := rfl
@[simp] theorem beginCycle_seg (s : State) : (beginCycle s).seg = s.seg := rfl
@[simp] theorem beginCycle_dign (s : State) : (beginCycle s).dign = s.dign := rfl
@[simp] theorem beginCycle_arm (s : State) : (beginCycle s).arm = s.arm := rfl
@[simp] theorem beginCycle_dnext (s : State) : (beginCycle s).dnext = s.dnext := rfl
@[simp] theorem beginCycle_rdata (s : State) : (beginCycle s).rdata = 0x00 := rfl
@[simp] theorem beginCycle_inputs (s : State) : (beginCycle s).inputs = s.inputs.tail := rfl

@[simp] theorem resetCycle_cell (s : State) : (resetCycle s).cell = State.reset.cell := rfl
@[simp] theorem resetCycle_bright (s : State) : (resetCycle s).bright = State.reset.bright := rfl
@[simp] theorem resetCycle_en (s : State) : (resetCycle s).en = State.reset.en := rfl
@[simp] theorem resetCycle_pos (s : State) : (resetCycle s).pos = State.reset.pos := rfl
@[simp] theorem resetCycle_ph (s : State) : (resetCycle s).ph = State.reset.ph := rfl
@[simp] theorem resetCycle_div (s : State) : (resetCycle s).div = State.reset.div := rfl
@[simp] theorem resetCycle_seg (s : State) : (resetCycle s).seg = State.reset.seg := rfl
@[simp] theorem resetCycle_dign (s : State) : (resetCycle s).dign = State.reset.dign := rfl
@[simp] theorem resetCycle_arm (s : State) : (resetCycle s).arm = State.reset.arm := rfl
@[simp] theorem resetCycle_dnext (s : State) : (resetCycle s).dnext = State.reset.dnext := rfl
@[simp] theorem resetCycle_rdata (s : State) : (resetCycle s).rdata = s.rdata := rfl
@[simp] theorem resetCycle_inputs (s : State) : (resetCycle s).inputs = s.inputs := rfl

@[simp] theorem armStage_dign (s : State) : (armStage s).dign = if s.arm then s.dnext else s.dign := by
  unfold armStage; split <;> rfl
@[simp] theorem armStage_arm (s : State) : (armStage s).arm = false := by
  unfold armStage; split <;> simp_all
@[simp] theorem armStage_cell (s : State) : (armStage s).cell = s.cell := by unfold armStage; split <;> rfl
@[simp] theorem armStage_bright (s : State) : (armStage s).bright = s.bright := by unfold armStage; split <;> rfl
@[simp] theorem armStage_en (s : State) : (armStage s).en = s.en := by unfold armStage; split <;> rfl
@[simp] theorem armStage_pos (s : State) : (armStage s).pos = s.pos := by unfold armStage; split <;> rfl
@[simp] theorem armStage_ph (s : State) : (armStage s).ph = s.ph := by unfold armStage; split <;> rfl
@[simp] theorem armStage_div (s : State) : (armStage s).div = s.div := by unfold armStage; split <;> rfl
@[simp] theorem armStage_seg (s : State) : (armStage s).seg = s.seg := by unfold armStage; split <;> rfl
@[simp] theorem armStage_dnext (s : State) : (armStage s).dnext = s.dnext := by unfold armStage; split <;> rfl
@[simp] theorem armStage_rdata (s : State) : (armStage s).rdata = s.rdata := by unfold armStage; split <;> rfl
@[simp] theorem armStage_inputs (s : State) : (armStage s).inputs = s.inputs := by unfold armStage; split <;> rfl

end Sys2Proof.Machine
end

