-- ==== Sys2Proof/Laws/Ops.lean ====
section
/-! SUPPORT. What the shared operations can do: one spec lemma each, for proofs to cite. -/

namespace Sys2Proof.Machine

/-- A position register below 4 selects its own position. -/
theorem phaseOf_of_lt {s : State} (h : s.pos.toNat < 4) : phaseOf s = .display ⟨s.pos.toNat, h⟩ := by
  simp [phaseOf, h]

/-- From 4 on, level 3 shows position 0. -/
theorem phaseOf_skip {s : State} (h : 4 ≤ s.pos.toNat) (hb : s.bright.toNat = 3) : phaseOf s = .display 0 := by
  simp [phaseOf, hb, Config.maxLevel, Nat.not_lt.mpr h]

/-- From 4 on, a level below 3 pauses. -/
theorem phaseOf_pause {s : State} (h : 4 ≤ s.pos.toNat) (hb : s.bright.toNat ≠ 3) : phaseOf s = .pause := by
  simp [phaseOf, hb, Config.maxLevel, Nat.not_lt.mpr h]

/-- A tick pauses only below `MAX_LEVEL` and from `POS` 4 on. -/
theorem phaseOf_eq_pause {s : State} (h : phaseOf s = .pause) : 4 ≤ s.pos.toNat ∧ s.bright.toNat ≠ 3 := by
  unfold phaseOf at h
  split at h
  · cases h
  · split at h
    · cases h
    · exact ⟨by omega, by simpa [Config.maxLevel] using ‹¬_›⟩

/-- What a processed tick can do: it is a display step or the pause step of the level, after the lines are deasserted. -/
theorem tickEffect_cases (s : State) :
    (∃ i, phaseOf s = .display i ∧ tickEffect s = displayStep i s.bright s.deassert) ∨
    (phaseOf s = .pause ∧ tickEffect s = pauseStep s.bright s.deassert) := by
  unfold tickEffect
  cases phaseOf s with
  | display i => exact .inl ⟨i, rfl, rfl⟩
  | pause => exact .inr ⟨rfl, rfl⟩

theorem tickEffect_display {s : State} {i : Position} (h : phaseOf s = .display i) :
    tickEffect s = displayStep i s.bright s.deassert := by simp [tickEffect, h]

theorem tickEffect_pause {s : State} (h : phaseOf s = .pause) :
    tickEffect s = pauseStep s.bright s.deassert := by simp [tickEffect, h]

@[simp] theorem tickEffect_cell (s : State) : (tickEffect s).cell = s.cell := by
  rcases tickEffect_cases s with ⟨i, -, h⟩ | ⟨-, h⟩ <;> simp [h]
@[simp] theorem tickEffect_bright (s : State) : (tickEffect s).bright = s.bright := by
  rcases tickEffect_cases s with ⟨i, -, h⟩ | ⟨-, h⟩ <;> simp [h]
@[simp] theorem tickEffect_en (s : State) : (tickEffect s).en = s.en := by
  rcases tickEffect_cases s with ⟨i, -, h⟩ | ⟨-, h⟩ <;> simp [h]
@[simp] theorem tickEffect_dign (s : State) : (tickEffect s).dign = 0b1111 := by
  rcases tickEffect_cases s with ⟨i, -, h⟩ | ⟨-, h⟩ <;> simp [h]
@[simp] theorem tickEffect_rdata (s : State) : (tickEffect s).rdata = s.rdata := by
  rcases tickEffect_cases s with ⟨i, -, h⟩ | ⟨-, h⟩ <;> simp [h]
@[simp] theorem tickEffect_inputs (s : State) : (tickEffect s).inputs = s.inputs := by
  rcases tickEffect_cases s with ⟨i, -, h⟩ | ⟨-, h⟩ <;> simp [h]

/-- The arm stage leaves what a tick would perform. -/
@[simp] theorem phaseOf_armStage (s : State) : phaseOf (armStage s) = phaseOf s := by
  unfold phaseOf; simp

/-- The rdata port and the schedule are no part of what a tick performs. -/
@[simp] theorem phaseOf_beginCycle (s : State) : phaseOf (beginCycle s) = phaseOf s := rfl

@[simp] theorem phaseOf_setRdata (s : State) (d : Byte) : phaseOf (s.setRdata d) = phaseOf s := rfl

@[simp] theorem busRead_beginCycle (s : State) (a : Byte) : busRead (beginCycle s) a = busRead s a := rfl

/-- The line pattern of a position has exactly its own line low. -/
theorem selectLine_getLsbD (i k : Position) : (selectLine i).getLsbD k.val = decide (k ≠ i) := by
  revert i k; decide

theorem onDiv_ne_zero (b : Level) : onDiv b ≠ 0 := by revert b; decide

theorem onDiv_eq (b : Level) : onDiv b = if b.toNat = 3 then 4 else 2 := by revert b; decide

theorem offDiv_toNat {b : Level} (h : b.toNat < 3) : (offDiv b).toNat = 6 - b.toNat := by
  revert b; decide

@[simp] theorem andThen_next (s : State) (f : State → Host.Outcome State Fault Refusal) : andThen (.next s) f = f s := rfl

end Sys2Proof.Machine
end

