-- ==== Sys2Proof/Laws/PerInstr.lean ====
section
/-! SUPPORT. Facts made per operation: TableRow says that the word of an operation is of a row of the opcode map that has the
operation's mnemonic (30_encoding.md R75). -/

namespace Sys2Proof.Laws.TableRow

/-- The word is of a row with the mnemonic; TICK's row is its own one-bit word. -/
def inTable (m : String) : OpWord → Bool
  | .bus w => busRows.any fun r => r.matches w && r.mnemonic == m
  | .tick t => t == 1 && m == "TICK"

/-- The encoding of a well-formed operation is of a row with its mnemonic. -/
def Statement (i : Instr) : Prop :=
  i.wellFormed = true → inTable i.mnemonic (encode i) = true

/-- The bits a row looks at are those above the data byte, so the data byte may be taken as 0. -/
theorem matches_data (we : Bool) (a d : Byte) {r : BusRow} (h : r ∈ busRows) :
    r.matches (busWord we a d) = r.matches (busWord we a 0) := by
  have hm : ∀ r ∈ busRows, r.mask &&& 0xFF = 0 := by decide
  have key : busWord we a d &&& r.mask = busWord we a 0 &&& r.mask := by
    apply BitVec.eq_of_getLsbD_eq
    intro k hk
    by_cases h8 : k < 8
    · have hone : ∀ k < 8, (0xFF : BusWord).getLsbD k = true := by decide
      have hz : (r.mask &&& 0xFF).getLsbD k = false := by rw [hm r h]; simp
      rw [BitVec.getLsbD_and, hone k h8, Bool.and_true] at hz
      simp only [BitVec.getLsbD_and, hz, Bool.and_false]
    · simp only [BitVec.getLsbD_and, busWord_getLsbD, h8, ite_false]
  simp [BusRow.matches, key]

theorem any_data (we : Bool) (a d : Byte) (m : String) :
    (busRows.any fun r => r.matches (busWord we a d) && r.mnemonic == m) =
      (busRows.any fun r => r.matches (busWord we a 0) && r.mnemonic == m) := by
  rw [Bool.eq_iff_iff, List.any_eq_true, List.any_eq_true]
  constructor <;> rintro ⟨r, hr, h⟩ <;> exact ⟨r, hr, by simpa [matches_data we a d hr] using h⟩

theorem inTable_data (we : Bool) (a d : Byte) (m : String) :
    inTable m (.bus (busWord we a d)) = inTable m (.bus (busWord we a 0)) := any_data we a d m

theorem rdcell (p : Position) : Statement (.rdcell p) := by
  intro _; show inTable "RDCELL" (.bus (busWord false (cellAddr p) 0)) = true; revert p; decide
theorem wrcell (p : Position) (d : Byte) : Statement (.wrcell p d) := by
  intro _; show inTable "WRCELL" (.bus (busWord true (cellAddr p) d)) = true
  rw [inTable_data]; clear * -; revert p; decide
theorem rdbright : Statement .rdbright := fun _ => by decide
theorem wrbright (d : Byte) : Statement (.wrbright d) := fun _ => by
  show inTable "WRBRIGHT" (.bus (busWord true 0x80 d)) = true; rw [inTable_data]; decide
theorem rdctrl : Statement .rdctrl := fun _ => by decide
theorem wrctrl (d : Byte) : Statement (.wrctrl d) := fun _ => by
  show inTable "WRCTRL" (.bus (busWord true 0x81 d)) = true; rw [inTable_data]; decide
theorem rdstatus : Statement .rdstatus := fun _ => by decide
theorem wrstatus (d : Byte) : Statement (.wrstatus d) := fun _ => by
  show inTable "WRSTATUS" (.bus (busWord true 0x82 d)) = true; rw [inTable_data]; decide
theorem rdnone (a : Byte) : Statement (.rdnone a) := by
  show unmapped a = true → inTable "RDNONE" (.bus (busWord false a 0)) = true
  revert a; decide
theorem wrnone (a d : Byte) : Statement (.wrnone a d) := by
  show unmapped a = true → inTable "WRNONE" (.bus (busWord true a d)) = true
  rw [inTable_data]; clear d; revert a; decide
theorem tick : Statement .tick := fun _ => by decide

end Sys2Proof.Laws.TableRow
end

