-- ==== Sys2Proof/Laws/Step.lean ====
section
/-! SUPPORT. The meanings as equations, and the step taken apart into the phases of its cycle. -/

namespace Sys2Proof.Machine

@[simp] theorem exec_rdcell (p : Position) (s : State) : exec (.rdcell p) s = .next (s.setRdata s.cell[p]) := rfl
@[simp] theorem exec_wrcell (p : Position) (d : Byte) (s : State) : exec (.wrcell p d) s = .next (s.setCell p d) := rfl
@[simp] theorem exec_rdbright (s : State) : exec .rdbright s = .next (s.setRdata (brightByte s)) := rfl
@[simp] theorem exec_wrbright (d : Byte) (s : State) : exec (.wrbright d) s = .next (s.setBright (levelOf d)) := rfl
@[simp] theorem exec_rdctrl (s : State) : exec .rdctrl s = .next (s.setRdata (ctrlByte s)) := rfl
@[simp] theorem exec_rdstatus (s : State) : exec .rdstatus s = .next (s.setRdata (statusByte s)) := rfl
@[simp] theorem exec_wrstatus (d : Byte) (s : State) : exec (.wrstatus d) s = .next s := rfl
@[simp] theorem exec_rdnone (a : Byte) (s : State) : exec (.rdnone a) s = .next (s.setRdata 0x00) := rfl
@[simp] theorem exec_wrnone (a d : Byte) (s : State) : exec (.wrnone a d) s = .next s := rfl
@[simp] theorem exec_tick (s : State) : exec .tick s = .next (if s.en then tickEffect s else s) := rfl

/-- A control write is CLEAR, then INIT, as its bits request. -/
@[simp] theorem exec_wrctrl (d : Byte) (s : State) :
    exec (.wrctrl d) s =
      .next (if wantsInit d then initAction (if wantsClear d then clearAction s else s)
        else if wantsClear d then clearAction s else s) := rfl

/-- A host read drives the byte that the address map gives. -/
theorem exec_decodeRead (a : Byte) (s : State) : exec (decodeRead a) s = .next (s.setRdata (busRead s a)) := by
  unfold decodeRead busRead
  split
  · rfl
  · split
    · rfl
    · split
      · rfl
      · split <;> rfl

/-- What a host write can do: store a cell, set the level, perform control actions, or nothing. -/
theorem busWrite_cases (s : State) (a d : Byte) :
    (∃ p : Position, a = cellAddr p ∧ busWrite s a d = s.setCell p d) ∨
    (a = 0x80 ∧ busWrite s a d = s.setBright (levelOf d)) ∨
    (a = 0x81 ∧ busWrite s a d =
      if wantsInit d then initAction (if wantsClear d then clearAction s else s)
      else if wantsClear d then clearAction s else s) ∨
    (¬ a.toNat < 4 ∧ a ≠ 0x80 ∧ a ≠ 0x81 ∧ busWrite s a d = s) := by
  unfold busWrite
  split
  · next h => exact .inl ⟨⟨a.toNat, h⟩, by simp [cellAddr], rfl⟩
  · split
    · next h => exact .inr (.inl ⟨(addr_eq_iff a (by decide)).2 h, rfl⟩)
    · split
      · next h => exact .inr (.inr (.inl ⟨(addr_eq_iff a (by decide)).2 h, rfl⟩))
      · refine .inr (.inr (.inr ⟨by assumption, ?_, ?_, rfl⟩)) <;> (rintro rfl; simp_all)

/-- A host write does what the address map says. -/
theorem exec_decodeWrite (a d : Byte) (s : State) : exec (decodeWrite a d) s = .next (busWrite s a d) := by
  rw [decodeWrite_eq]
  unfold busWrite
  split
  · rfl
  · split
    · rfl
    · split
      · rfl
      · split <;> rfl

/-- The step of a scheduled cycle. -/
theorem step_cons {s : State} {inp : CycleInput} {rest : List CycleInput} (h : s.inputs = inp :: rest) :
    step s = runCycle inp (beginCycle s) := by
  simp [step, clockEdge, nextInput, h]

/-- The state a cycle with no reset leaves before its host write: read, arm stage, tick. -/
theorem runCycle_of_not_rst {inp : CycleInput} {s : State} (h : inp.rst = false) :
    runCycle inp s =
      let s0 := if inp.sel && !inp.we then s.setRdata (busRead s inp.addr) else s
      let s2 := if inp.tick && s.en then tickEffect (armStage s0) else armStage s0
      execOp inp.writeOp s2 := by
  cases hs : inp.sel <;> cases hw : inp.we <;> cases ht : inp.tick <;> cases he : s.en <;>
    simp [runCycle, h, readOp_eq, writeOp_eq, tickOp_eq, hs, hw, ht, he, execOp, exec_decodeRead]

/-- The state a cycle with a reset leaves: the reset values, with the port as the cycle's read drove it. -/
theorem runCycle_of_rst {inp : CycleInput} {s : State} (h : inp.rst = true) :
    runCycle inp s =
      .next (resetCycle (if inp.sel && !inp.we then s.setRdata (busRead s inp.addr) else s)) := by
  cases hs : inp.sel <;> cases hw : inp.we <;>
    simp [runCycle, h, readOp_eq, hs, hw, execOp, exec_decodeRead]

/-- The host's run, one step at a time. -/
theorem run_succ (M : Host.Core) (n : Nat) (s : M.State) :
    M.run (n + 1) s = match M.step s with
      | .next t => M.run n t
      | .fault r => .fault r
      | .refused r => .refused r := rfl

/-- A run of steps is the host's run of the machine. -/
theorem runSteps_eq_run (n : Nat) (s : State) : runSteps n s = Sys2Proof.core.run n s := by
  induction n generalizing s with
  | zero => rfl
  | succ n ih =>
    refine Eq.trans ?_ (run_succ Sys2Proof.core n s).symm
    show andThen (step s) (runSteps n) = _
    have hs : Sys2Proof.core.step s = step s := rfl
    rw [hs]
    cases step s with
    | next t => exact ih t
    | fault r => rfl
    | refused r => rfl

end Sys2Proof.Machine
end

