-- ==== Sys2Proof/Tests/Slice0.lean ====
section
/-! SUPPORT. The model's own tests: well-formedness smoke, words of the spec's encodings, one-step vectors of
95_test_vectors.md (V, T), and for every statement with hypotheses a state and operands that meet them. -/

namespace Sys2Proof.Tests

open Sys2Proof Sys2Proof.Machine

/-- The next state of an outcome. -/
def nextOf : Host.Outcome State Fault Refusal → Option State
  | .next s => some s
  | .fault _ => none
  | .refused _ => none

/-- The state of section 2.2 of 95_test_vectors.md: enabled, `CELL` = [05 73 57 87], a position and a level. -/
def vec (pos : BitVec 3) (bright : Level) : State :=
  { State.reset with cell := #v[0x05, 0x73, 0x57, 0x87], en := true, div := 2, pos := pos, bright := bright }

/-- What a step of a state with one scheduled cycle leaves. -/
def after (s : State) (inp : CycleInput) : Option State := nextOf (step { s with inputs := [inp] })

/-! ### Well-formedness: the check refuses an ill-formed term of each kind it looks at -/

theorem test_wf_rdnone_of_cell_refused : (Instr.rdnone 0x03).wellFormed = false := by decide
theorem test_wf_rdnone_of_bright_refused : (Instr.rdnone 0x80).wellFormed = false := by decide
theorem test_wf_wrnone_of_cell_refused : (Instr.wrnone 0x00 0xFF).wellFormed = false := by decide
theorem test_wf_wrnone_of_status_refused : (Instr.wrnone 0x82 0x01).wellFormed = false := by decide
theorem test_wf_edges_accepted :
    (Instr.rdnone 0x04).wellFormed = true ∧ (Instr.rdnone 0x7F).wellFormed = true ∧
    (Instr.wrnone 0x83 0).wellFormed = true ∧ (Instr.wrnone 0xFF 0).wellFormed = true := by decide

/-! ### Decoding: words written out bit by bit from R71 and R75 (we, addr, wdata), and the words of V1 to V31 -/

theorem test_decode_rdcell : decodeBus 0b0_00000010_00000000 = .rdcell 2 := by decide
theorem test_decode_wrcell : decodeBus 0b1_00000011_11111111 = .wrcell 3 0xFF := by decide
theorem test_decode_rdbright : decodeBus 0b0_10000000_10101010 = .rdbright := by decide
theorem test_decode_wrbright : decodeBus 0b1_10000000_11111110 = .wrbright 0xFE := by decide
theorem test_decode_rdctrl : decodeBus 0b0_10000001_00000000 = .rdctrl := by decide
theorem test_decode_wrctrl : decodeBus 0b1_10000001_00000011 = .wrctrl 0x03 := by decide
theorem test_decode_rdstatus : decodeBus 0b0_10000010_00000000 = .rdstatus := by decide
theorem test_decode_wrstatus : decodeBus 0b1_10000010_11111111 = .wrstatus 0xFF := by decide
theorem test_decode_rdnone : decodeBus 0b0_00000100_00000000 = .rdnone 0x04 := by decide
theorem test_decode_wrnone : decodeBus 0b1_10000011_00010010 = .wrnone 0x83 0x12 := by decide
theorem test_decode_tick : decodeTableWord 8 1 = some .tick := by decide
theorem test_decode_rejects_by_name :
    decodeBits 8 0 = .error .noTickPulse ∧ decodeBits 8 2 = .error .notATickWord ∧
    decodeBits 24 0x20000 = .error .notABusWord := by decide
theorem test_encode_words_of_the_spec :
    encode (.wrcell 0 0x05) = .bus 0x10005 ∧ encode .rdstatus = .bus 0x08200 ∧ encode .tick = .tick 1 := by decide

/-! ### One-step vectors -/

/-- V3. -/
theorem test_rdcell : (after { State.reset with cell := #v[0, 0, 0x57, 0] } (.rd 0x02)).map (·.rdata) = some 0x57 := by
  decide
/-- V2, V5. -/
theorem test_wrcell : (after State.reset (.wr 0x02 0x57)).map (·.cell) = some #v[0, 0, 0x57, 0] := by decide
theorem test_wrcell_last : (after State.reset (.wr 0x03 0xFF)).map (·.cell) = some #v[0, 0, 0, 0xFF] := by decide
/-- V17. -/
theorem test_rdbright : (after State.reset (.rd 0x80)).map (·.rdata) = some 0x03 := by decide
/-- V13 and V16, V15. -/
theorem test_wrbright_above : (after (vec 0 0) (.wr 0x80 0x04)).map (·.bright) = some 3 := by decide
theorem test_wrbright_negative :
    (after (vec 0 3) (.wr 0x80 0x80)).map (·.bright) = some 0 ∧ (after (vec 0 3) (.wr 0x80 0xFF)).map (·.bright) = some 0 := by
  decide
/-- V19, V22. -/
theorem test_rdctrl :
    (after State.reset (.rd 0x81)).map (·.rdata) = some 0x00 ∧ (after (vec 0 3) (.rd 0x81)).map (·.rdata) = some 0x01 := by
  decide
/-- V21. -/
theorem test_wrctrl_init :
    (after { State.reset with bright := 0 } (.wr 0x81 0x01)).map (fun t => (t.en, t.pos, t.ph, t.div)) =
      some (true, 0, false, 2) := by decide
/-- V24: the arm stage asserts the line and CLEAR undoes it. -/
theorem test_wrctrl_clear_cancels_assertion :
    (after { vec 2 0 with arm := true, dnext := 0b1101 } (.wr 0x81 0x02)).map (fun t => (t.dign, t.arm, t.dnext, t.pos)) =
      some (0b1111, false, 0b1101, 2) := by decide
/-- V27, V28. -/
theorem test_rdstatus_blank :
    (after { vec 0 1 with ph := true, div := 5 } (.rd 0x82)).map (·.rdata) = some 0x58 := by decide
/-- T16: a read beside a tick answers from before it. -/
theorem test_rdstatus_beside_tick : (after (vec 2 0) (CycleInput.rd 0x82).withTick).map (·.rdata) = some 0x22 := by decide
/-- V30. -/
theorem test_wrstatus : after (vec 2 0) (.wr 0x82 0xFF) = some (vec 2 0) := by decide
/-- V8, V9. -/
theorem test_rdnone : (after (vec 2 0) (.rd 0xFF)).map (·.rdata) = some 0x00 := by decide
/-- V6, V31. -/
theorem test_wrnone : after (vec 2 0) (.wr 0x04 0xF7) = some (vec 2 0) := by decide
/-- T2. -/
theorem test_tick_display :
    (after (vec 1 1) .tickOnly).map (fun t => (t.seg, t.dign, t.arm, t.dnext)) = some (0x73, 0b1111, true, 0b1101) ∧
    (after (vec 1 1) .tickOnly).map (fun t => (t.div, t.pos, t.ph)) = some (2, 2, false) := by decide
/-- T6. -/
theorem test_tick_pause :
    (after (vec 4 1) .tickOnly).map (fun t => (t.seg, t.dign, t.arm, t.div, t.pos, t.ph)) =
      some (0x00, 0b1111, false, 5, 0, true) := by decide
/-- T13: the tick uses the old level, the write wins. -/
theorem test_cycle_tick_and_write :
    (after (vec 4 3) (CycleInput.wr 0x80 0x00).withTick).map (fun t => (t.pos, t.div, t.bright)) = some (1, 4, 0) := by
  decide
/-- T14: the tick displays position 0, then INIT restarts the sequence. -/
theorem test_cycle_tick_and_init :
    (after (vec 0 0) (CycleInput.wr 0x81 0x01).withTick).map (fun t => (t.arm, t.dnext, t.pos, t.div)) =
      some (true, 0b1110, 0, 2) := by decide
/-- T17. -/
theorem test_cycle_reset_discards_tick :
    after (vec 2 0) (CycleInput.resetOnly).withTick = some State.reset := by decide
/-- R23: the pattern 0x08 is the decimal point alone. -/
theorem test_lit_decimal_point :
    lit { vec 0 0 with seg := 0x08, dign := 0b1110 } 0 .dp = true ∧
    lit { vec 0 0 with seg := 0x08, dign := 0b1110 } 0 .a = false ∧
    lit { vec 0 0 with seg := 0x08, dign := 0b1110 } 1 .dp = false := by decide

/-! ### Witnesses: the hypotheses of each statement can be met -/

theorem wit_EncodeThenDecode : (Instr.wrnone 0x7F 0xFF).wellFormed = true ∧ (Instr.rdnone 0x83).wellFormed = true := by
  decide

theorem wit_TableWord :
    (0x18101 : BusWord).getLsbD 16 = true ∧ (0x08200 : BusWord).getLsbD 16 = false := by decide

theorem wit_WriteCell_otherCell : (3 : Position) ≠ 0 := by decide

theorem wit_WriteBrightness_otherAddress : (0x81 : Byte) ≠ 0x80 := by decide

theorem wit_IgnoredWrites :
    (CycleInput.wr 0x82 0xFF).sel = true ∧ (CycleInput.wr 0x82 0xFF).we = true ∧ (CycleInput.wr 0x82 0xFF).addr = 0x82 ∧
    unmapped (CycleInput.wr 0x04 0xF7).addr = true ∧ unmapped (CycleInput.wr 0xFF 0xF7).addr = true := by decide

theorem wit_RepeatedHostOperation : Instr.wrctrl 0x03 ≠ .tick := by decide

theorem wit_TickAtPosition_first : (vec 0 3).en = true ∧ (vec 0 3).pos.toNat = (0 : Position).val := by decide
theorem wit_TickAtPosition_last : (vec 3 0).en = true ∧ (vec 3 0).pos.toNat = (3 : Position).val := by decide

theorem wit_TickSkipsPause :
    (vec 4 3).en = true ∧ 4 ≤ (vec 4 3).pos.toNat ∧ (vec 4 3).bright.toNat = 3 ∧ 4 ≤ (vec 7 3).pos.toNat := by decide

theorem wit_TickPauses :
    (vec 4 2).en = true ∧ 4 ≤ (vec 4 2).pos.toNat ∧ (vec 4 2).bright.toNat < 3 ∧ (vec 7 0).bright.toNat < 3 := by decide

theorem wit_TickDropped :
    State.reset.en = false ∧ { State.reset with inputs := [CycleInput.tickOnly] }.inputs = .tickOnly :: [] := by decide

theorem wit_TickOutOfRange : (vec 0 1).en = true ∧ 5 ≤ (5 : BitVec 3).toNat ∧ 5 ≤ (7 : BitVec 3).toNat := by decide

theorem wit_TickReadsNeither :
    (vec 3 3).en = true ∧ ((vec 3 3).pos.toNat < 4 ∨ (vec 3 3).bright.toNat = 3) ∧
    4 ≤ (vec 4 2).pos.toNat ∧ (vec 4 2).bright.toNat < 3 ∧ State.reset.en = false := by decide

/-- Five ticks with a cell write, a level write below 3 and a CLEAR among them. -/
def fiveTicks : List CycleInput :=
  [.tickOnly, .idle, (CycleInput.wr 0x00 0xF7).withTick, (CycleInput.wr 0x80 0x02).withTick, .wr 0x81 0x02, .tickOnly,
   .tickOnly]

theorem wit_Fair_belowFull :
    let s := { vec 0 0 with inputs := fiveTicks }
    s.en = true ∧ s.pos = 0 ∧ s.bright.toNat < 3 ∧
    (∀ inp ∈ s.inputs.take 7, inp.rst = false ∧ inp.requestsInit = false ∧
      (inp.writes 0x80 = true → (levelOf inp.wdata).toNat < 3)) ∧
    (s.inputs.take 7).countP (·.tick) = 5 := by decide

/-- Five ticks, each at least 2 cycles after the one before, with a cell write and a level write among them. -/
def spacedTicks : List CycleInput :=
  [.tickOnly, .idle, (CycleInput.wr 0x00 0xF7).withTick, .idle, .tickOnly, .wr 0x80 0x02, .tickOnly, .rd 0x82, .tickOnly]

theorem wit_Spaced :
    let s := { vec 0 0 with inputs := spacedTicks }
    s.en = true ∧ s.pos = 0 ∧ s.arm = false ∧ s.bright.toNat < 3 ∧
    (∀ inp ∈ s.inputs.take 9, inp.rst = false ∧ inp.requestsInit = false ∧ inp.requestsClear = false ∧
      (inp.writes 0x80 = true → (levelOf inp.wdata).toNat < 3)) ∧
    ticksSpaced (s.inputs.take 9) = true ∧ (s.inputs.take 9).countP (·.tick) = 5 := by decide

theorem wit_Fair_full :
    let s := { vec 4 3 with inputs := [CycleInput.tickOnly, .wr 0x80 0x7F, .tickOnly] }
    s.bright.toNat = 3 ∧
    ∀ inp ∈ s.inputs.take 3, inp.rst = false ∧ (inp.writes 0x80 = true → (levelOf inp.wdata).toNat = 3) := by decide

theorem wit_StepRuns :
    State.reset.inputs = [] ∧ { vec 0 0 with inputs := [CycleInput.tickOnly] }.inputs = .tickOnly :: [] ∧
    CycleInput.tickOnly.rst = false ∧ CycleInput.idle.sel = false ∧ CycleInput.idle.tick = false ∧
    (CycleInput.wr 0 0).sel = true ∧ (CycleInput.wr 0 0).we = true ∧ (CycleInput.wr 0 0).tick = false ∧
    (CycleInput.rd 0).sel = true ∧ (CycleInput.rd 0).we = false ∧ (CycleInput.rd 0).withTick.tick = true ∧
    (CycleInput.wr 0 0).withTick.tick = true ∧ (CycleInput.wr 0 0).rst = false ∧ (CycleInput.rd 0).rst = false := by decide

theorem wit_StepFollows :
    { vec 1 0 with inputs := [(CycleInput.wr 0x01 0x05).withTick] }.inputs = (CycleInput.wr 0x01 0x05).withTick :: [] ∧
    (CycleInput.wr 0x01 0x05).withTick.rst = false := by decide

theorem wit_ResetCycle :
    { vec 1 0 with inputs := [CycleInput.resetOnly] }.inputs = .resetOnly :: [] ∧ CycleInput.resetOnly.rst = true ∧
    (CycleInput.resetOnly.sel && !CycleInput.resetOnly.we) = false := by decide

theorem wit_ReadBesideReset :
    { CycleInput.rd 0x02 with rst := true }.rst = true ∧ { CycleInput.rd 0x02 with rst := true }.isRead = true := by decide

theorem wit_Idle :
    { vec 1 0 with inputs := [CycleInput.idle, .idle] }.inputs = List.replicate (1 + 1) CycleInput.idle := by decide

theorem wit_ReadAnswers :
    { vec 1 0 with inputs := [CycleInput.rd 0x03] }.inputs = .rd 0x03 :: [] ∧ (CycleInput.rd 0x03).rst = false ∧
    (CycleInput.rd 0x03).isRead = true ∧ (CycleInput.rd 0x03).addr.toNat < 4 ∧ (CycleInput.wr 0 0).isRead = false ∧
    (CycleInput.rd 0x80).addr = 0x80 ∧ (CycleInput.rd 0x81).addr = 0x81 ∧ (CycleInput.rd 0x82).addr = 0x82 ∧
    unmapped (CycleInput.rd 0x04).addr = true ∧ unmapped (CycleInput.rd 0x83).addr = true := by decide

theorem wit_WrittenByte :
    { vec 1 0 with inputs := [(CycleInput.wr 0x03 0xF7).withTick, CycleInput.rd 0x03] }.inputs =
      ⟨false, true, true, true, 0x03, 0xF7⟩ :: ⟨false, false, true, false, 0x03, 0⟩ :: [] ∧
    (0x03 : Byte).toNat < 4 ∧ unmapped 0x04 = true := by decide

theorem wit_WrittenByte_level :
    { vec 1 0 with inputs := [CycleInput.wr 0x80 0x7F, CycleInput.rd 0x80] }.inputs =
      ⟨false, false, true, true, 0x80, 0x7F⟩ :: ⟨false, false, true, false, 0x80, 0⟩ :: [] := by decide

theorem wit_Clear :
    { vec 1 0 with inputs := [(CycleInput.wr 0x81 0x02).withTick] }.inputs = (CycleInput.wr 0x81 0x02).withTick :: [] ∧
    (CycleInput.wr 0x81 0x02).withTick.rst = false ∧ (CycleInput.wr 0x81 0x02).withTick.requestsClear = true := by decide

/-- A tick and an INIT in one cycle, from a state with a pending assertion. -/
def busy : State := { vec 1 0 with arm := true, dnext := 0b1110, inputs := [(CycleInput.wr 0x81 0x01).withTick] }

theorem wit_Writers :
    busy.inputs = (CycleInput.wr 0x81 0x01).withTick :: [] ∧ (CycleInput.wr 0x81 0x01).withTick.rst = false ∧
    (nextOf (step busy)).isSome = true := by decide

theorem wit_StepKeepsInvariant : SeqInv busy ∧ (nextOf (step busy)).isSome = true :=
  ⟨⟨by decide, by decide, by decide, by decide, by decide, by decide⟩, by decide⟩

theorem wit_Reachable :
    startsAtReset { State.reset with inputs := [CycleInput.wr 0x81 0x01, .tickOnly] } = true ∧
    (nextOf (runSteps 2 { State.reset with inputs := [CycleInput.wr 0x81 0x01, .tickOnly] })).isSome = true := by decide

theorem wit_RunNotFromReset :
    State.reset = { State.reset with inputs := State.reset.inputs } ∧
    vec 1 0 ≠ { State.reset with inputs := (vec 1 0).inputs } := by decide

theorem wit_Dark :
    startsAtReset { State.reset with inputs := [CycleInput.tickOnly, .wr 0x81 0x02] } = true ∧
    (∀ inp ∈ [CycleInput.tickOnly, .wr 0x81 0x02].take 2, inp.requestsInit = true → inp.rst = true) ∧
    (nextOf (runSteps 2 { State.reset with inputs := [CycleInput.tickOnly, .wr 0x81 0x02] })).isSome = true := by decide

theorem wit_SegmentBusChanges :
    (after (vec 1 0) .tickOnly).map (·.seg) = some 0x73 ∧ (vec 1 0).seg ≠ 0x73 := by decide

/-- A digit lit at two consecutive edges. -/
def litState : State := { vec 1 0 with dign := 0b1110, dnext := 0b1110, inputs := [CycleInput.idle] }

theorem wit_BreakBeforeMake :
    SeqInv litState ∧ litState.dign ≠ 0b1111 ∧ (nextOf (step litState)).map (·.dign) = some 0b1110 :=
  ⟨⟨by decide, by decide, by decide, by decide, by decide, by decide⟩, by decide, by decide⟩

theorem wit_DisplayTick :
    let s := { vec 3 2 with inputs := (CycleInput.tickOnly :: ([CycleInput.idle, .rd 0x82] ++ [CycleInput.tickOnly])) }
    processesTick .tickOnly s = true ∧ CycleInput.tickOnly.writes 0x81 = false ∧ phaseOf s = .display 3 ∧
    (∀ q ∈ [CycleInput.idle, .rd 0x82],
      q.rst = false ∧ q.tick = false ∧ q.requestsClear = false ∧ q.requestsInit = false) := by decide

theorem wit_PauseTick :
    let s := { vec 4 2 with inputs := (CycleInput.tickOnly :: ([CycleInput.idle] ++ [CycleInput.tickOnly])) }
    processesTick .tickOnly s = true ∧ CycleInput.tickOnly.writes 0x81 = false ∧ phaseOf s = .pause ∧
    (∀ q ∈ [CycleInput.idle], q.rst = false ∧ q.tick = false ∧ q.requestsClear = false ∧ q.requestsInit = false) := by
  decide

theorem wit_BackToBack :
    let s := { vec 0 0 with inputs := [CycleInput.tickOnly, .tickOnly] }
    s.inputs = .tickOnly :: .tickOnly :: [] ∧ processesTick .tickOnly s = true ∧ CycleInput.tickOnly.rst = false ∧
    CycleInput.tickOnly.tick = true := by decide

theorem wit_LitSegments :
    let s := { vec 2 0 with inputs := [CycleInput.tickOnly, .idle] }
    s.inputs = .tickOnly :: .idle :: [] ∧ s.en = true ∧ phaseOf s = .display 2 := by decide

/-- A display phase of two cycles and the tick that ends it. -/
def phaseState : State := { vec 0 0 with inputs := CycleInput.tickOnly :: ([CycleInput.idle] ++ .tickOnly :: []) }

theorem phaseState_trace : timerTrace 3 phaseState = [(true, 2), (false, 2), (true, 2)] := by decide

/-- The ticks of `phaseState` are spaced by a timer whose period is as many cycles as its class. -/
theorem phaseState_spacing : TimerSpacing BitVec.toNat (timerTrace 3 phaseState) := by
  rw [phaseState_trace]
  constructor
  · intro k t h
    rcases k with _ | _ | _ | k <;> simp at h
  · intro i k c d t hc hi hik hk hm
    rcases i with _ | _ | _ | i <;> simp at hi
    · rcases k with _ | _ | _ | k
      · omega
      · simp at hk; simp [← hk.1, ← hk.2]
      · simp at hk; simp [← hk.1, ← hk.2]
      · simp at hk
    · rcases k with _ | _ | _ | k
      · omega
      · omega
      · omega
      · simp at hk

/-- R90: the value from before the reset. -/
theorem test_read_beside_reset :
    (after (vec 1 0) { CycleInput.rd 0x02 with rst := true }).map (fun t => (t.rdata, t.en)) = some (0x57, false) := by decide

theorem wit_TimerDropsNoTick :
    SeqInv phaseState ∧ TimerSpacing BitVec.toNat (timerTrace 3 phaseState) ∧ 2 < 3 ∧
    (nextOf (runSteps 2 phaseState)).map (fun t => (nextInput t).tick) = some true :=
  ⟨⟨by decide, by decide, by decide, by decide, by decide, by decide⟩, phaseState_spacing, by decide, by decide⟩

/-- That timer keeps the whole contract, with a tick within one cycle more than the period. -/
theorem phaseState_contract : TimerContract BitVec.toNat (fun c => c.toNat + 1) (timerTrace 3 phaseState) where
  toTimerSpacing := phaseState_spacing
  ordered := ⟨by decide, by decide⟩
  produces := by
    rw [phaseState_trace]
    intro i c hc h
    obtain ⟨t, ht⟩ := h i (Nat.le_refl i) (by omega)
    have h2 : c = 2 := by rcases i with _ | _ | _ | i <;> simp_all
    subst h2
    rcases i with _ | i
    · exact ⟨0, by decide, by decide, by decide⟩
    · obtain ⟨t, ht⟩ := h (i + 3) (by omega) (by simp)
      simp at ht

theorem wit_TimerKeepsRunning :
    SeqInv phaseState ∧ phaseState.en = true ∧ phaseState.div.toNat + 1 = 3 ∧
    TimerContract BitVec.toNat (fun c => c.toNat + 1) (timerTrace 3 phaseState) ∧
    (∀ inp ∈ phaseState.inputs.take 3, inp.rst = false ∧ inp.requestsInit = false) :=
  ⟨⟨by decide, by decide, by decide, by decide, by decide, by decide⟩, by decide, by decide, phaseState_contract, by decide⟩

theorem wit_DisplayPhase :
    phaseState.inputs = .tickOnly :: ([CycleInput.idle] ++ CycleInput.tickOnly :: []) ∧
    processesTick .tickOnly phaseState = true ∧ phaseOf phaseState = .display 0 ∧
    CycleInput.tickOnly.leavesSequencer = true ∧
    (∀ q ∈ [CycleInput.idle], q.tick = false ∧ q.leavesSequencer = true) ∧ CycleInput.tickOnly.tick = true ∧
    TimerSpacing BitVec.toNat (timerTrace ([CycleInput.idle].length + 2) phaseState) :=
  ⟨by decide, by decide, by decide, by decide, by decide, by decide, phaseState_spacing⟩

theorem wit_DutyCycle :
    (vec 0 2).en = true ∧ (vec 0 2).pos = 0 ∧ (vec 0 2).bright.toNat < 3 ∧
    isPhase 2 [CycleInput.tickOnly, .idle] = true ∧ isPhase 1 [CycleInput.tickOnly] = true ∧
    isPhase 3 [CycleInput.tickOnly, .wr 0x00 0xF7, .rd 0x82] = true := by decide

theorem wit_DutyCycle_full :
    (vec 4 3).en = true ∧ ((vec 4 3).pos = 0 ∨ 4 ≤ (vec 4 3).pos.toNat) ∧ (vec 4 3).bright.toNat = 3 ∧
    ((vec 0 3).pos = 0 ∨ 4 ≤ (vec 0 3).pos.toNat) := by decide

theorem wit_LowerLevel :
    PeriodsOrdered BitVec.toNat ∧ (vec 0 0).bright.toNat < (vec 0 2).bright.toNat ∧ (vec 0 2).bright.toNat < 3 ∧
    (vec 0 0).en = true ∧ (vec 0 0).pos = 0 ∧ (vec 0 2).en = true ∧ (vec 0 2).pos = 0 ∧
    isPhase (onDiv (vec 0 0).bright).toNat [CycleInput.tickOnly, .idle] = true ∧
    isPhase (offDiv (vec 0 0).bright).toNat [CycleInput.tickOnly, .idle, .idle, .idle, .idle, .idle] = true ∧
    isPhase (onDiv (vec 0 2).bright).toNat [CycleInput.tickOnly, .rd 0x80] = true ∧
    isPhase (offDiv (vec 0 2).bright).toNat [CycleInput.tickOnly, .idle, .wr 0x01 0x05, .idle] = true :=
  ⟨⟨by decide, by decide⟩, by decide⟩

theorem wit_SetGetBrightness :
    { vec 0 0 with inputs := (PseudoOp.setBrightness (-200)).expand ++ PseudoOp.getBrightness.expand }.inputs =
      [CycleInput.wr 0x80 0x80] ++ [CycleInput.rd 0x80] ++ [] := by decide

theorem wit_WriteCellPseudo :
    (PseudoOp.writeCell 3 0xF7).expand = [CycleInput.wr 0x03 0xF7] ∧ (PseudoOp.writeCell 4 0xF7).expand = [.wr 0x04 0xF7] ∧
    (PseudoOp.writeCell (-1) 0xF7).expand = [] ∧ (PseudoOp.writeCell 128 0xF7).expand = [] := by decide

theorem wit_WriteAll :
    let l := [CycleInput.wr 0x03 4, (CycleInput.wr 0x00 1).withTick, .wr 0x02 3, .wr 0x01 2]
    (l.map fun inp => { inp with tick := false }).Perm (PseudoOp.writeAll 1 2 3 4).expand := by decide

end Sys2Proof.Tests
end

/-! ## The cycle by its phases, and the rules of 10_state.md

A cycle is its read, the arm stage, its tick and its write (R120). Each phase is named here and tied to the step by
`step_eq`; what a phase does to a field is said once, and the statements of the state's family are read off. -/

namespace Sys2Proof.Machine

/-! ### The phases of a cycle -/

/-- The read phase of a cycle: a host read drives `rdata` (R90). -/
def readPhase (inp : CycleInput) (s : State) : State :=
  if inp.isRead then s.setRdata (busRead s inp.addr) else s

/-- The tick phase of a cycle: a tick is processed when `EN` = 1 (R122). -/
def tickPhase (inp : CycleInput) (s : State) : State :=
  if inp.tick && s.en then tickEffect s else s

/-- The write phase of a cycle: a host write by the address map (R91). -/
def writePhase (inp : CycleInput) (s : State) : State :=
  if inp.sel && inp.we then busWrite s inp.addr inp.wdata else s

/-- The state a cycle leaves, by its phases in the order of R120, with reset before everything (R170). -/
def cycleResult (inp : CycleInput) (s : State) : State :=
  if inp.rst then resetCycle (readPhase inp s)
  else writePhase inp (tickPhase inp (armStage (readPhase inp s)))

@[simp] theorem readPhase_cell (inp : CycleInput) (s : State) : (readPhase inp s).cell = s.cell := by
  unfold readPhase; split <;> rfl
@[simp] theorem readPhase_bright (inp : CycleInput) (s : State) : (readPhase inp s).bright = s.bright := by
  unfold readPhase; split <;> rfl
@[simp] theorem readPhase_en (inp : CycleInput) (s : State) : (readPhase inp s).en = s.en := by
  unfold readPhase; split <;> rfl
@[simp] theorem readPhase_pos (inp : CycleInput) (s : State) : (readPhase inp s).pos = s.pos := by
  unfold readPhase; split <;> rfl
@[simp] theorem readPhase_ph (inp : CycleInput) (s : State) : (readPhase inp s).ph = s.ph := by
  unfold readPhase; split <;> rfl
@[simp] theorem readPhase_div (inp : CycleInput) (s : State) : (readPhase inp s).div = s.div := by
  unfold readPhase; split <;> rfl
@[simp] theorem readPhase_seg (inp : CycleInput) (s : State) : (readPhase inp s).seg = s.seg := by
  unfold readPhase; split <;> rfl
@[simp] theorem readPhase_dign (inp : CycleInput) (s : State) : (readPhase inp s).dign = s.dign := by
  unfold readPhase; split <;> rfl
@[simp] theorem readPhase_arm (inp : CycleInput) (s : State) : (readPhase inp s).arm = s.arm := by
  unfold readPhase; split <;> rfl
@[simp] theorem readPhase_dnext (inp : CycleInput) (s : State) : (readPhase inp s).dnext = s.dnext := by
  unfold readPhase; split <;> rfl
@[simp] theorem readPhase_inputs (inp : CycleInput) (s : State) : (readPhase inp s).inputs = s.inputs := by
  unfold readPhase; split <;> rfl
@[simp] theorem phaseOf_readPhase (inp : CycleInput) (s : State) : phaseOf (readPhase inp s) = phaseOf s := by
  unfold readPhase; split <;> rfl

/-- Running a cycle is running its phases. -/
theorem runCycle_eq (inp : CycleInput) (s : State) : runCycle inp s = .next (cycleResult inp s) := by
  cases hr : inp.rst with
  | true => rw [runCycle_of_rst hr]; simp [cycleResult, hr, readPhase, CycleInput.isRead]
  | false =>
    have hen : (armStage (readPhase inp s)).en = s.en := by simp
    rw [runCycle_of_not_rst hr, writeOp_eq]
    simp only [cycleResult, hr, writePhase, tickPhase, hen, Bool.false_eq_true, if_false]
    cases inp.sel && inp.we with
    | true => exact exec_decodeWrite _ _ _
    | false => rfl

/-- Every step answers the state its cycle's phases leave. -/
theorem step_eq (s : State) : step s = .next (cycleResult (nextInput s) (beginCycle s)) := runCycle_eq _ _

theorem eq_cycleResult_of_step {s t : State} (h : step s = .next t) :
    t = cycleResult (nextInput s) (beginCycle s) := by
  rw [step_eq] at h; injection h with h; exact h.symm

/-- The step of a scheduled cycle with `rst` = 0. -/
theorem step_of_not_rst {s : State} {inp : CycleInput} {rest : List CycleInput} (h : s.inputs = inp :: rest)
    (hr : inp.rst = false) :
    step s = .next (writePhase inp (tickPhase inp (armStage (readPhase inp (beginCycle s))))) := by
  rw [step_cons h, runCycle_eq, cycleResult, if_neg (by simp [hr])]

/-! ### The tick phase -/

/-- What the tick phase can do: process a tick, which needs `EN` = 1, or nothing. -/
theorem tickPhase_cases (inp : CycleInput) (s : State) :
    (inp.tick = true ∧ s.en = true ∧ tickPhase inp s = tickEffect s) ∨
    ((inp.tick && s.en) = false ∧ tickPhase inp s = s) := by
  unfold tickPhase
  split
  next h => exact .inl ⟨(Bool.and_eq_true_iff.1 h).1, (Bool.and_eq_true_iff.1 h).2, rfl⟩
  next h => exact .inr ⟨Bool.eq_false_iff.2 h, rfl⟩

@[simp] theorem tickPhase_cell (inp : CycleInput) (s : State) : (tickPhase inp s).cell = s.cell := by
  unfold tickPhase; split <;> simp
@[simp] theorem tickPhase_bright (inp : CycleInput) (s : State) : (tickPhase inp s).bright = s.bright := by
  unfold tickPhase; split <;> simp
@[simp] theorem tickPhase_en (inp : CycleInput) (s : State) : (tickPhase inp s).en = s.en := by
  unfold tickPhase; split <;> simp
@[simp] theorem tickPhase_dign (inp : CycleInput) (s : State) :
    (tickPhase inp s).dign = if inp.tick && s.en then 0b1111 else s.dign := by
  unfold tickPhase; split <;> simp
@[simp] theorem tickPhase_inputs (inp : CycleInput) (s : State) : (tickPhase inp s).inputs = s.inputs := by
  unfold tickPhase; split <;> simp

/-- A processed tick writes `SEG` and `DNEXT` only when it is a display tick (R31, R33). -/
theorem tickEffect_of_not_display {s : State} (h : ¬ ∃ i, phaseOf s = .display i) :
    (tickEffect s).seg = s.seg ∧ (tickEffect s).dnext = s.dnext := by
  rcases tickEffect_cases s with ⟨i, hi, -⟩ | ⟨-, he⟩
  · exact absurd ⟨i, hi⟩ h
  · simp [he]

theorem onDiv_mem (b : Level) : onDiv b = 2 ∨ onDiv b = 4 := by revert b; decide

theorem offDiv_mem {b : Level} (h : b.toNat ≠ 3) : offDiv b = 4 ∨ offDiv b = 5 ∨ offDiv b = 6 := by
  revert b; decide

/-- A processed tick selects a class other than 0: it pauses only below `MAX_LEVEL` (R29, R125). -/
theorem tickEffect_div_mem (s : State) :
    (tickEffect s).div = 2 ∨ (tickEffect s).div = 4 ∨ (tickEffect s).div = 5 ∨ (tickEffect s).div = 6 := by
  rcases tickEffect_cases s with ⟨i, -, he⟩ | ⟨hp, he⟩
  · rw [he]
    rcases onDiv_mem s.bright with h | h <;> simp [h]
  · rw [he]
    rcases offDiv_mem (phaseOf_eq_pause hp).2 with h | h | h <;> simp [h]

/-- A tick that is not processed is no tick phase. -/
theorem tickPhase_of_not_processed {inp : CycleInput} {s : State} (h : (inp.tick && s.en) = false) :
    tickPhase inp s = s := by
  simp only [tickPhase, h, Bool.false_eq_true, if_false]

/-- `SEG` and `DNEXT` change in the tick phase only by a processed display tick (R31, R33). -/
theorem tickPhase_of_not_display {inp : CycleInput} {s : State}
    (h : ¬ ((inp.tick && s.en) = true ∧ ∃ i, phaseOf s = .display i)) :
    (tickPhase inp s).seg = s.seg ∧ (tickPhase inp s).dnext = s.dnext := by
  rcases tickPhase_cases inp s with ⟨ht, he, h'⟩ | ⟨-, h'⟩
  · rw [h']
    exact tickEffect_of_not_display fun hd => h ⟨by simp [ht, he], hd⟩
  · simp [h']

/-- A class that the tick phase writes to `DIV` is one of those a processed tick selects. -/
theorem tickPhase_div_mem {inp : CycleInput} {s : State} (h : (tickPhase inp s).div ≠ s.div) :
    (tickPhase inp s).div = 2 ∨ (tickPhase inp s).div = 4 ∨ (tickPhase inp s).div = 5 ∨
      (tickPhase inp s).div = 6 := by
  rcases tickPhase_cases inp s with ⟨-, -, he⟩ | ⟨-, he⟩
  · rw [he]; exact tickEffect_div_mem s
  · exact absurd (congrArg State.div he) h

/-! ### The write phase -/

/-- Only a CTRL write requests a control action. -/
theorem no_request_of_not_ctrl {inp : CycleInput} (h : inp.writes 0x81 = false) :
    inp.requestsInit = false ∧ inp.requestsClear = false := by
  simp only [CycleInput.requestsInit, CycleInput.requestsClear, h, Bool.false_and, and_self]

theorem cellAddr_ne_bright (p : Position) : cellAddr p ≠ 0x80 := by revert p; decide

theorem cellAddr_ne_ctrl (p : Position) : cellAddr p ≠ 0x81 := by revert p; decide

/-- CLEAR, then INIT, as the cycle requests them (R102). -/
def controlActions (inp : CycleInput) (s : State) : State :=
  let s1 := if inp.requestsClear then clearAction s else s
  if inp.requestsInit then initAction s1 else s1

/-- What the write phase can do, by the address written (R51). -/
theorem writePhase_cases (inp : CycleInput) (s : State) :
    (∃ p : Position, inp.writes (cellAddr p) = true ∧ inp.writes 0x80 = false ∧ inp.writes 0x81 = false ∧
      writePhase inp s = s.setCell p inp.wdata) ∨
    (inp.writes 0x80 = true ∧ inp.writes 0x81 = false ∧ writePhase inp s = s.setBright (levelOf inp.wdata)) ∨
    (inp.writes 0x80 = false ∧ inp.writes 0x81 = true ∧ writePhase inp s = controlActions inp s) ∨
    (inp.writes 0x80 = false ∧ inp.writes 0x81 = false ∧ writePhase inp s = s) := by
  unfold writePhase
  split
  case isFalse h => simp [CycleInput.writes, h]
  case isTrue h =>
    have hw (a : Byte) : inp.writes a = (inp.addr == a) := by simp [CycleInput.writes, h]
    have hne {a : Byte} (ha : inp.addr ≠ a) : inp.writes a = false := (hw a).trans (beq_false_of_ne ha)
    rcases busWrite_cases s inp.addr inp.wdata with ⟨p, ha, he⟩ | ⟨ha, he⟩ | ⟨ha, he⟩ | ⟨-, h80, h81, he⟩
    · exact .inl ⟨p, by simp [hw, ha], hne (ha ▸ cellAddr_ne_bright p), hne (ha ▸ cellAddr_ne_ctrl p), he⟩
    · exact .inr (.inl ⟨by simp [hw, ha], by simp [hw, ha], he⟩)
    · refine .inr (.inr (.inl ⟨by simp [hw, ha], by simp [hw, ha], ?_⟩))
      rw [he]
      simp [controlActions, CycleInput.requestsInit, CycleInput.requestsClear, hw, ha, wantsInit, wantsClear]
    · exact .inr (.inr (.inr ⟨hne h80, hne h81, he⟩))

@[simp] theorem controlActions_bright (inp : CycleInput) (s : State) : (controlActions inp s).bright = s.bright := by
  unfold controlActions; cases inp.requestsInit <;> cases inp.requestsClear <;> simp
@[simp] theorem controlActions_cell (inp : CycleInput) (s : State) :
    (controlActions inp s).cell = if inp.requestsClear then #v[0x00, 0x00, 0x00, 0x00] else s.cell := by
  unfold controlActions; cases inp.requestsInit <;> cases inp.requestsClear <;> simp
@[simp] theorem controlActions_en (inp : CycleInput) (s : State) :
    (controlActions inp s).en = (s.en || inp.requestsInit) := by
  unfold controlActions; cases inp.requestsInit <;> cases inp.requestsClear <;> simp
@[simp] theorem controlActions_pos (inp : CycleInput) (s : State) :
    (controlActions inp s).pos = if inp.requestsInit then 0 else s.pos := by
  unfold controlActions; cases inp.requestsInit <;> cases inp.requestsClear <;> simp
@[simp] theorem controlActions_ph (inp : CycleInput) (s : State) :
    (controlActions inp s).ph = (s.ph && !inp.requestsInit) := by
  unfold controlActions; cases inp.requestsInit <;> cases inp.requestsClear <;> simp
@[simp] theorem controlActions_div (inp : CycleInput) (s : State) :
    (controlActions inp s).div = if inp.requestsInit then onDiv s.bright else s.div := by
  unfold controlActions; cases inp.requestsInit <;> cases inp.requestsClear <;> simp
@[simp] theorem controlActions_seg (inp : CycleInput) (s : State) :
    (controlActions inp s).seg = if inp.requestsClear then 0x00 else s.seg := by
  unfold controlActions; cases inp.requestsInit <;> cases inp.requestsClear <;> simp
@[simp] theorem controlActions_dign (inp : CycleInput) (s : State) :
    (controlActions inp s).dign = if inp.requestsClear then 0b1111 else s.dign := by
  unfold controlActions; cases inp.requestsInit <;> cases inp.requestsClear <;> simp
@[simp] theorem controlActions_arm (inp : CycleInput) (s : State) :
    (controlActions inp s).arm = (s.arm && !inp.requestsClear) := by
  unfold controlActions; cases inp.requestsInit <;> cases inp.requestsClear <;> simp
@[simp] theorem controlActions_dnext (inp : CycleInput) (s : State) : (controlActions inp s).dnext = s.dnext := by
  unfold controlActions; cases inp.requestsInit <;> cases inp.requestsClear <;> simp
@[simp] theorem controlActions_rdata (inp : CycleInput) (s : State) : (controlActions inp s).rdata = s.rdata := by
  unfold controlActions; cases inp.requestsInit <;> cases inp.requestsClear <;> simp
@[simp] theorem controlActions_inputs (inp : CycleInput) (s : State) : (controlActions inp s).inputs = s.inputs := by
  unfold controlActions; cases inp.requestsInit <;> cases inp.requestsClear <;> simp

/-- Without a CTRL write there is no control action. -/
theorem controlActions_of_not_ctrl {inp : CycleInput} (h : inp.writes 0x81 = false) (s : State) :
    controlActions inp s = s := by
  simp [controlActions, no_request_of_not_ctrl h]

/-- Cells and level aside, a host write is its control actions; and it writes no level beside them. -/
theorem writePhase_eq_controlActions (inp : CycleInput) (s : State) :
    ∃ c b, writePhase inp s = controlActions inp { s with cell := c, bright := b } ∧
      (inp.requestsInit = true → b = s.bright) := by
  have hinit (h : inp.writes 0x81 = false) {b : Level} : inp.requestsInit = true → b = s.bright := by
    simp [no_request_of_not_ctrl h]
  rcases writePhase_cases inp s with ⟨p, -, -, h, he⟩ | ⟨-, h, he⟩ | ⟨-, -, he⟩ | ⟨-, h, he⟩
  · exact ⟨_, _, by rw [he, controlActions_of_not_ctrl h]; rfl, hinit h⟩
  · exact ⟨_, _, by rw [he, controlActions_of_not_ctrl h]; rfl, hinit h⟩
  · exact ⟨s.cell, s.bright, he, fun _ => rfl⟩
  · exact ⟨s.cell, s.bright, by rw [he, controlActions_of_not_ctrl h], hinit h⟩

@[simp] theorem writePhase_en (inp : CycleInput) (s : State) :
    (writePhase inp s).en = (s.en || inp.requestsInit) := by
  obtain ⟨c, b, h, -⟩ := writePhase_eq_controlActions inp s; simp [h]
@[simp] theorem writePhase_pos (inp : CycleInput) (s : State) :
    (writePhase inp s).pos = if inp.requestsInit then 0 else s.pos := by
  obtain ⟨c, b, h, -⟩ := writePhase_eq_controlActions inp s; simp [h]
@[simp] theorem writePhase_ph (inp : CycleInput) (s : State) :
    (writePhase inp s).ph = (s.ph && !inp.requestsInit) := by
  obtain ⟨c, b, h, -⟩ := writePhase_eq_controlActions inp s; simp [h]
@[simp] theorem writePhase_div (inp : CycleInput) (s : State) :
    (writePhase inp s).div = if inp.requestsInit then onDiv s.bright else s.div := by
  obtain ⟨c, b, h, hb⟩ := writePhase_eq_controlActions inp s
  rw [h, controlActions_div]
  split
  next hi => rw [← hb hi]
  next => rfl
@[simp] theorem writePhase_seg (inp : CycleInput) (s : State) :
    (writePhase inp s).seg = if inp.requestsClear then 0x00 else s.seg := by
  obtain ⟨c, b, h, -⟩ := writePhase_eq_controlActions inp s; simp [h]
@[simp] theorem writePhase_dign (inp : CycleInput) (s : State) :
    (writePhase inp s).dign = if inp.requestsClear then 0b1111 else s.dign := by
  obtain ⟨c, b, h, -⟩ := writePhase_eq_controlActions inp s; simp [h]
@[simp] theorem writePhase_arm (inp : CycleInput) (s : State) :
    (writePhase inp s).arm = (s.arm && !inp.requestsClear) := by
  obtain ⟨c, b, h, -⟩ := writePhase_eq_controlActions inp s; simp [h]
@[simp] theorem writePhase_dnext (inp : CycleInput) (s : State) : (writePhase inp s).dnext = s.dnext := by
  obtain ⟨c, b, h, -⟩ := writePhase_eq_controlActions inp s; simp [h]
@[simp] theorem writePhase_rdata (inp : CycleInput) (s : State) : (writePhase inp s).rdata = s.rdata := by
  obtain ⟨c, b, h, -⟩ := writePhase_eq_controlActions inp s; simp [h]
@[simp] theorem writePhase_inputs (inp : CycleInput) (s : State) : (writePhase inp s).inputs = s.inputs := by
  obtain ⟨c, b, h, -⟩ := writePhase_eq_controlActions inp s; simp [h]

/-- The level is written at 0x80 alone (R28, R96). -/
@[simp] theorem writePhase_bright (inp : CycleInput) (s : State) :
    (writePhase inp s).bright = if inp.writes 0x80 then levelOf inp.wdata else s.bright := by
  rcases writePhase_cases inp s with ⟨p, -, h, -, he⟩ | ⟨h, -, he⟩ | ⟨h, -, he⟩ | ⟨h, -, he⟩ <;>
    rw [he, h]
  case inr.inr.inl => exact controlActions_bright inp s
  all_goals rfl

/-- A cell is written at its own address or by CLEAR (R22). -/
theorem writePhase_cell_of_not_writes {inp : CycleInput} {p : Position} (hw : inp.writes (cellAddr p) = false)
    (hc : inp.requestsClear = false) (s : State) : (writePhase inp s).cell[p] = s.cell[p] := by
  rcases writePhase_cases inp s with ⟨q, h, -, -, he⟩ | ⟨-, -, he⟩ | ⟨-, -, he⟩ | ⟨-, -, he⟩
  · have hne : q ≠ p := by rintro rfl; simp [h] at hw
    simpa [he] using Vector.getElem_set_ne q.isLt p.isLt (Fin.val_ne_of_ne hne)
  · simp [he]
  · simp [he, hc]
  · simp [he]

/-! ### The invariant of 10_state.md R34 -/

/-- Exactly one line of a position's pattern is low (R124). -/
theorem lowLines_selectLine (i : Position) : lowLines (selectLine i) = 1 := by revert i; decide

/-- The position after DISPLAY(i) is i + 1, in 1..4 (R124). -/
theorem displayed_position_le (i : Position) : (BitVec.ofNat 3 (i.val + 1)).toNat ≤ 4 := by revert i; decide

namespace SeqInv

variable {s : State}

/-- The invariant does not speak of the cells, the level, the port and the schedule. -/
theorem congr {t : State} (h : SeqInv s) (hs : t = { s with
    cell := t.cell, bright := t.bright, seg := t.seg, rdata := t.rdata, inputs := t.inputs }) : SeqInv t := by
  rw [hs]
  exact ⟨h.digits, h.position, h.enabled, h.disabled, h.blank, h.armed⟩

theorem reset : SeqInv State.reset where
  digits := by decide
  position := by decide
  enabled := by decide
  disabled := by decide
  blank := by decide
  armed := by decide

theorem resetCycle (s : State) : SeqInv (Machine.resetCycle s) := reset.congr rfl

theorem beginCycle (h : SeqInv s) : SeqInv (Machine.beginCycle s) := h.congr rfl

theorem readPhase (h : SeqInv s) (inp : CycleInput) : SeqInv (Machine.readPhase inp s) := by
  unfold Machine.readPhase
  split
  · exact h.congr rfl
  · exact h

/-- The pending assertion drives its one line; the blank and the disabled state have none pending. -/
theorem armStage (h : SeqInv s) : SeqInv (Machine.armStage s) := by
  unfold Machine.armStage
  split
  case isFalse => exact h
  case isTrue ha =>
    obtain ⟨-, hnext⟩ := h.armed ha
    have hen : s.en ≠ false := fun he => by simp [h.disabled he] at ha
    have hph : s.ph ≠ true := fun hp => by simp [h.blank hp] at ha
    exact ⟨hnext.le, h.position, h.enabled, fun he => absurd he hen, fun hp => absurd hp hph, nofun⟩

/-- DISPLAY(i) leaves one line pending and all lines off, PAUSE leaves none pending. -/
theorem tickEffect (hen : s.en = true) : SeqInv (Machine.tickEffect s) where
  digits := by rw [tickEffect_dign]; decide
  position := by
    rcases tickEffect_cases s with ⟨i, -, he⟩ | ⟨-, he⟩
    · simpa only [he, displayStep_pos] using displayed_position_le i
    · simp [he]
  enabled := fun _ => tickEffect_div_mem s
  disabled := by simp [hen]
  blank := by rcases tickEffect_cases s with ⟨i, -, he⟩ | ⟨-, he⟩ <;> simp [he]
  armed := by rcases tickEffect_cases s with ⟨i, -, he⟩ | ⟨-, he⟩ <;> simp [he, lowLines_selectLine]

theorem tickPhase (h : SeqInv s) (inp : CycleInput) : SeqInv (Machine.tickPhase inp s) := by
  rcases tickPhase_cases inp s with ⟨-, hen, he⟩ | ⟨-, he⟩
  · rw [he]; exact tickEffect hen
  · rw [he]; exact h

/-- CLEAR turns every line off and cancels a pending assertion. -/
theorem clearAction (h : SeqInv s) : SeqInv (Machine.clearAction s) where
  digits := by rw [clearAction_dign]; decide
  position := h.position
  enabled := h.enabled
  disabled := fun he => by simp [h.disabled he]
  blank := fun hp => by simp [h.blank hp]
  armed := nofun

/-- INIT enables the sequencer with the class of a display phase, and leaves the lines and a pending assertion. -/
theorem initAction (h : SeqInv s) : SeqInv (Machine.initAction s) where
  digits := h.digits
  position := by simp
  enabled := fun _ => by rcases onDiv_mem s.bright with hd | hd <;> simp [hd]
  disabled := nofun
  blank := nofun
  armed := h.armed

theorem controlActions (h : SeqInv s) (inp : CycleInput) : SeqInv (Machine.controlActions inp s) := by
  unfold Machine.controlActions
  have hclear : SeqInv (if inp.requestsClear then Machine.clearAction s else s) := by
    split
    · exact h.clearAction
    · exact h
  dsimp only
  split
  · exact hclear.initAction
  · exact hclear

theorem writePhase (h : SeqInv s) (inp : CycleInput) : SeqInv (Machine.writePhase inp s) := by
  obtain ⟨c, b, he, -⟩ := writePhase_eq_controlActions inp s
  rw [he]
  exact (h.congr rfl : SeqInv { s with cell := c, bright := b }).controlActions inp

/-- Every phase of a cycle keeps the invariant, and a reset establishes it. -/
theorem cycleResult (h : SeqInv s) (inp : CycleInput) : SeqInv (Machine.cycleResult inp s) := by
  unfold Machine.cycleResult
  split
  · exact resetCycle _
  · exact (((h.readPhase inp).armStage).tickPhase inp).writePhase inp

theorem step {t : State} (h : SeqInv s) (ht : Machine.step s = .next t) : SeqInv t := by
  rw [eq_cycleResult_of_step ht]
  exact h.beginCycle.cycleResult _

end SeqInv

/-- What every step keeps, every run keeps. -/
theorem runSteps_keeps {P : State → Prop} (hstep : ∀ s t, P s → step s = .next t → P t) {n : Nat} {s t : State}
    (hs : P s) (h : runSteps n s = .next t) : P t := by
  induction n generalizing s with
  | zero => injection h with h; exact h ▸ hs
  | succ n ih =>
    rw [runSteps, step_eq, andThen_next] at h
    exact ih (hstep s _ hs (step_eq s)) h

/-- A state a run may start at has the invariant, whatever is scheduled. -/
theorem seqInv_of_startsAtReset {s : State} (h : startsAtReset s = true) : SeqInv s := by
  have hs : { s with inputs := [] } = State.reset := eq_of_beq h
  exact (hs ▸ SeqInv.reset : SeqInv { s with inputs := [] }).congr rfl

/-! ### The statements on the invariant -/

/-- Settles O32: each phase of the cycle keeps the invariant. -/
theorem everyStepKeepsInvariant : Obligations.EveryStepKeepsInvariant := by
  unfold Obligations.EveryStepKeepsInvariant
  exact fun _ _ h ht => h.step ht

/-- Settles O30: each clause is read off the field's equations for the phases of the cycle. -/
theorem registersChangeOnlyByTheirWriters : Obligations.RegistersChangeOnlyByTheirWriters := by
  unfold Obligations.RegistersChangeOnlyByTheirWriters
  intro s t inp rest hin hr ht
  obtain rfl : _ = t := Host.Outcome.next.inj ((step_of_not_rst hin hr).symm.trans ht)
  have hproc : processesTick inp s = (inp.tick && s.en) := by simp [processesTick, hr]
  rw [hproc]
  have hskip (h : ¬ (inp.tick && s.en) = true) := tickPhase_of_not_processed (inp := inp)
    (s := armStage (readPhase inp (beginCycle s))) (by simpa using h)
  have hdisplay (h : ¬ ((inp.tick && s.en) = true ∧ ∃ i, phaseOf s = .display i)) :=
    tickPhase_of_not_display (inp := inp) (s := armStage (readPhase inp (beginCycle s))) (by simpa using h)
  refine ⟨fun p hp => ?cell, fun hb => ?bright, fun he => ?en, fun he => by simp [he], fun hseq => ?sequencer,
    fun hd => ?div, fun hs => ?seg, fun hl => ?lines, fun hn => ?dnext, by simp [hin]⟩
  case cell =>
    by_contra hno
    obtain ⟨hw, hc⟩ := not_or.1 hno
    apply hp
    rw [writePhase_cell_of_not_writes (Bool.eq_false_iff.2 hw) (Bool.eq_false_iff.2 hc)]
    simp
  case bright =>
    by_contra hw
    simp only [writePhase_bright, hw] at hb
    simp at hb
  case en =>
    by_contra hi
    simp [hi] at he
  case sequencer =>
    by_contra hno
    obtain ⟨ht, hi⟩ := not_or.1 hno
    simp [hskip ht, hi] at hseq
  case div =>
    rw [writePhase_div] at hd ⊢
    split at hd
    next hi =>
      rw [if_pos hi]
      exact (onDiv_mem _).imp_right .inl
    next hi =>
      rw [if_neg hi]
      exact tickPhase_div_mem (by simpa using hd)
  case seg =>
    by_contra hno
    obtain ⟨ht, hc⟩ := not_or.1 hno
    simp [hdisplay ht, hc] at hs
  case lines =>
    by_contra hno
    obtain ⟨ha, hno⟩ := not_or.1 hno
    obtain ⟨ht, hc⟩ := not_or.1 hno
    simp [hskip ht, ha, hc] at hl
  case dnext =>
    by_contra ht
    simp [hdisplay ht] at hn

/-- Settles O31: each clause is a fact about the registers' reset values. -/
theorem resetStateSatisfiesInvariant : Obligations.ResetStateSatisfiesInvariant := by
  unfold Obligations.ResetStateSatisfiesInvariant
  exact SeqInv.reset

/-- Settles O33, by the invariant at reset and its preservation along a run. -/
theorem everyReachableStateSatisfiesInvariant : Obligations.EveryReachableStateSatisfiesInvariant := by
  unfold Obligations.EveryReachableStateSatisfiesInvariant
  intro n s t hs hrun
  exact runSteps_keeps everyStepKeepsInvariant (seqInv_of_startsAtReset hs) hrun

/-! ### The lines, the lit segments and the position register -/

/-- A cycle asserts no line that a pending assertion does not name: with none pending, the lines stand or all go off. -/
theorem cycleResult_dign_of_not_arm {s : State} (ha : s.arm = false) (inp : CycleInput) :
    (cycleResult inp s).dign = s.dign ∨ (cycleResult inp s).dign = 0b1111 := by
  unfold cycleResult
  split
  · exact .inr rfl
  · simp only [writePhase_dign, tickPhase_dign, armStage_dign, readPhase_arm, readPhase_dign, ha]
    split
    · exact .inr rfl
    · split
      · exact .inr rfl
      · exact .inl rfl

/-- Settles O37: while a line is asserted none is pending, so the step keeps the lines or turns all off. -/
theorem digitLinesBreakBeforeMake : Obligations.DigitLinesBreakBeforeMake := by
  unfold Obligations.DigitLinesBreakBeforeMake
  intro s t hinv ht hs hoff
  have ha : s.arm = false := Bool.eq_false_iff.2 fun ha => hs (hinv.armed ha).1
  rw [eq_cycleResult_of_step ht] at hoff ⊢
  exact (cycleResult_dign_of_not_arm (s := beginCycle s) ha _).resolve_right hoff

/-- A cycle with a tick alone is the arm stage and, when `EN` = 1, the tick. -/
theorem step_tickOnly {s : State} {rest : List CycleInput} (h : s.inputs = .tickOnly :: rest) (hen : s.en = true) :
    step s = .next (tickEffect (armStage (beginCycle s))) := by
  rw [step_of_not_rst h rfl]
  simp [readPhase, tickPhase, writePhase, CycleInput.tickOnly, CycleInput.isRead, hen]

/-- An idle cycle is the arm stage. -/
theorem step_idle {s : State} {rest : List CycleInput} (h : s.inputs = .idle :: rest) :
    step s = .next (armStage (beginCycle s)) := by
  rw [step_of_not_rst h rfl]
  simp [readPhase, tickPhase, writePhase, CycleInput.idle, CycleInput.isRead]

/-- With the line of position i alone asserted, what is lit is the pattern on the bus, at i (R24, R32). -/
theorem lit_of_selectLine {u : State} {i : Position} (h : u.dign = selectLine i) (k : Position) (x : Segment) :
    lit u k x = (decide (k = i) && u.seg.getLsbD (segmentBit x)) := by
  rw [lit, selected, digPort, segPort, h, selectLine_getLsbD, decide_not, Bool.not_not]

/-- Settles O41: the tick puts the cell on the bus and its line in `DNEXT`, and the idle cycle's arm stage asserts it. -/
theorem litSegmentsAreThePatternBits : Obligations.LitSegmentsAreThePatternBits := by
  unfold Obligations.LitSegmentsAreThePatternBits
  intro s i rest hin hen hphase
  have htick : tickEffect (armStage (beginCycle s)) =
      displayStep i s.bright (armStage (beginCycle s)).deassert := by
    rw [tickEffect_display (i := i) (by simpa using hphase)]; simp
  have hidle : (displayStep i s.bright (armStage (beginCycle s)).deassert).inputs = .idle :: rest := by simp [hin]
  refine ⟨_, by rw [runSteps, step_tickOnly hin hen, htick, andThen_next, runSteps, step_idle hidle, andThen_next,
    runSteps], fun k => ?_⟩
  simp [lit_of_selectLine (i := i), segmentBit]

/-- What a tick leaves does not depend on `POS` beyond the phase it selects (R124, R126). -/
theorem tickEffect_set_pos {s : State} {p q : BitVec 3}
    (h : phaseOf { s with pos := p } = phaseOf { s with pos := q }) :
    tickEffect { s with pos := p } = tickEffect { s with pos := q } := by
  unfold tickEffect
  rw [h]
  cases phaseOf { s with pos := q } with
  | display i => rfl
  | pause => rfl

/-- From 4 on, the level alone selects the phase (R25, R125). -/
theorem phaseOf_eq_of_bright {s t : State} (hs : 4 ≤ s.pos.toNat) (ht : 4 ≤ t.pos.toNat) (hb : s.bright = t.bright) :
    phaseOf s = phaseOf t := by
  by_cases h : t.bright.toNat = 3
  · rw [phaseOf_skip hs (hb ▸ h), phaseOf_skip ht h]
  · rw [phaseOf_pause hs (hb ▸ h), phaseOf_pause ht h]

theorem exec_tick_of_en {s : State} (h : s.en = true) : exec .tick s = .next (tickEffect s) := by
  rw [exec_tick, if_pos h]

/-- Settles O17: both positions select one phase, and the phase is all a tick takes from `POS`. -/
theorem tickTreatsOutOfRangePositionAsFour : Obligations.TickTreatsOutOfRangePositionAsFour := by
  unfold Obligations.TickTreatsOutOfRangePositionAsFour
  intro s q hen hq
  have hphase : phaseOf { s with pos := q } = phaseOf { s with pos := 4 } :=
    phaseOf_eq_of_bright (Nat.le_of_succ_le hq) (by simp) rfl
  rw [exec_tick_of_en (s := { s with pos := q }) hen, tickEffect_set_pos hphase,
    exec_tick_of_en (s := { s with pos := 4 }) hen]

end Sys2Proof.Machine

/-! ## The register space: 20_memory.md

What a host operation leaves, repeated (R57), and what a read returns of the byte written at its address (R58, R60). -/

namespace Sys2Proof.Machine

/-! ### Repeated updates -/

@[simp] theorem State.setRdata_setRdata (s : State) (d e : Byte) : (s.setRdata d).setRdata e = s.setRdata e := rfl
@[simp] theorem State.setCell_setCell (s : State) (p : Position) (d e : Byte) :
    (s.setCell p d).setCell p e = s.setCell p e := by
  simp only [State.setCell, Vector.set_set]
@[simp] theorem State.setBright_setBright (s : State) (b c : Level) : (s.setBright b).setBright c = s.setBright c := rfl
@[simp] theorem clearAction_clearAction (s : State) : clearAction (clearAction s) = clearAction s := rfl
@[simp] theorem initAction_initAction (s : State) : initAction (initAction s) = initAction s := rfl

/-- CLEAR and INIT write no register in common and read none of the other's, so their order is free. -/
theorem clearAction_initAction (s : State) : clearAction (initAction s) = initAction (clearAction s) := rfl

@[simp] theorem brightByte_setRdata (s : State) (d : Byte) : brightByte (s.setRdata d) = brightByte s := rfl
@[simp] theorem ctrlByte_setRdata (s : State) (d : Byte) : ctrlByte (s.setRdata d) = ctrlByte s := rfl
@[simp] theorem statusByte_setRdata (s : State) (d : Byte) : statusByte (s.setRdata d) = statusByte s := rfl

/-- A repeated control write repeats actions that are done already (R102). -/
theorem exec_wrctrl_repeat (d : Byte) (s : State) : ∃ t, exec (.wrctrl d) s = .next t ∧ exec (.wrctrl d) t = .next t := by
  refine ⟨_, exec_wrctrl d s, ?_⟩
  cases hc : wantsClear d <;> cases hi : wantsInit d <;> simp [hc, hi, clearAction_initAction]

/-- Settles O12: the byte a read drives does not depend on the port, and no write sets a register from what it overwrites. -/
theorem repeatedHostOperationChangesNothingMore : Obligations.RepeatedHostOperationChangesNothingMore := by
  unfold Obligations.RepeatedHostOperationChangesNothingMore
  intro i s hi
  cases i with
  | rdcell p => exact ⟨_, exec_rdcell p s, by simp⟩
  | rdbright => exact ⟨_, exec_rdbright s, by simp⟩
  | rdctrl => exact ⟨_, exec_rdctrl s, by simp⟩
  | rdstatus => exact ⟨_, exec_rdstatus s, by simp⟩
  | rdnone a => exact ⟨_, exec_rdnone a s, by simp⟩
  | wrcell p d => exact ⟨_, exec_wrcell p d s, by simp⟩
  | wrbright d => exact ⟨_, exec_wrbright d s, by simp⟩
  | wrctrl d => exact exec_wrctrl_repeat d s
  | wrstatus d => exact ⟨s, exec_wrstatus d s, exec_wrstatus d s⟩
  | wrnone a d => exact ⟨s, exec_wrnone a d s, exec_wrnone a d s⟩
  | tick => exact absurd rfl hi

/-! ### The port of a cycle -/

@[simp] theorem readPhase_rdata (inp : CycleInput) (s : State) :
    (readPhase inp s).rdata = if inp.isRead then busRead s inp.addr else s.rdata := by
  unfold readPhase; split <;> rfl
@[simp] theorem tickPhase_rdata (inp : CycleInput) (s : State) : (tickPhase inp s).rdata = s.rdata := by
  unfold tickPhase; split <;> simp

/-- After a cycle with `rst` = 0 the port holds what its read found before the edge, or 0x00 without a read (R90). -/
theorem rdata_of_step {s t : State} {inp : CycleInput} {rest : List CycleInput} (h : s.inputs = inp :: rest)
    (hr : inp.rst = false) (ht : step s = .next t) :
    t.rdata = if inp.isRead then busRead s inp.addr else 0x00 := by
  obtain rfl := Host.Outcome.next.inj ((step_of_not_rst h hr).symm.trans ht)
  simp

/-! ### What the address map holds after a write -/

theorem busRead_of_lt {a : Byte} (h : a.toNat < 4) (s : State) : busRead s a = s.cell[a.toNat] := by
  simp [busRead, isCellAddr_eq, h, cellIndex_of_lt h]

theorem busRead_bright (s : State) : busRead s 0x80 = brightByte s := rfl

/-- An unmapped address is the address of no register (R51, R106). -/
theorem busRead_unmapped {a : Byte} (h : unmapped a = true) (s : State) : busRead s a = 0x00 := by
  obtain ⟨hcell, h80, h81, h82⟩ := (unmapped_iff a).1 h
  have hne (b : Byte) (hb : a.toNat ≠ b.toNat) : a ≠ b := mt (congrArg BitVec.toNat) hb
  rw [busRead, isCellAddr_eq, if_neg (by simpa using hcell), if_neg (hne 0x80 h80), if_neg (hne 0x81 h81),
    if_neg (hne 0x82 h82)]

theorem busRead_busWrite_of_lt {a : Byte} (h : a.toNat < 4) (d : Byte) (s : State) :
    busRead (busWrite s a d) a = d := by
  rw [busRead_of_lt h]
  simp [busWrite, h]

theorem busRead_busWrite_bright (d : Byte) (s : State) :
    busRead (busWrite s 0x80 d) 0x80 = (levelOf d).setWidth 8 := rfl

theorem clamp_eq_max_min {lo hi : Int} (h : lo ≤ hi) (x : Int) : clamp x lo hi = max lo (min hi x) := by
  unfold clamp
  split
  · omega
  · split <;> omega

/-- The level of a byte lies in 0..3, so its two bits hold it whole (R96). -/
theorem levelOf_toNat (d : Byte) : ((levelOf d).toNat : Int) = max 0 (min 3 d.toInt) := by
  have hlevel : levelOf d = BitVec.ofInt 2 (max 0 (min 3 d.toInt)) :=
    congrArg (BitVec.ofInt 2) (clamp_eq_max_min (by decide) d.toInt)
  rw [hlevel, BitVec.toNat_ofInt]
  omega

/-! ### Written, then read -/

/-- Settles O28: the write comes last in its cycle and the read first in the next, so no tick stands between them, and the
read returns what the address map holds after the write. -/
theorem writtenByteReadsBackInTheNextCycle : Obligations.WrittenByteReadsBackInTheNextCycle := by
  unfold Obligations.WrittenByteReadsBackInTheNextCycle
  intro s a d k k' rest hin
  obtain ⟨u, hwrite, hinputs⟩ : ∃ u, step s = .next (busWrite u a d) ∧
      (busWrite u a d).inputs = ⟨false, k', true, false, a, 0⟩ :: rest :=
    ⟨_, step_of_not_rst hin rfl, (writePhase_inputs ⟨false, k, true, true, a, d⟩ _).trans (by simp [hin])⟩
  obtain ⟨t, hread⟩ : ∃ t, step (busWrite u a d) = .next t := ⟨_, step_eq _⟩
  have hrdata : t.rdata = busRead (busWrite u a d) a := rdata_of_step hinputs rfl hread
  refine ⟨t, by rw [runSteps, hwrite, andThen_next, runSteps, hread, andThen_next, runSteps], ?cell, ?level, ?unmapped⟩
  case cell =>
    intro ha
    rw [hrdata, busRead_busWrite_of_lt ha]
  case level =>
    rintro rfl
    rw [hrdata, busRead_busWrite_bright, BitVec.toNat_setWidth_of_le (by decide), levelOf_toNat]
  case unmapped =>
    intro ha
    rw [hrdata, busRead_unmapped ha]

end Sys2Proof.Machine

/-! ## The encoding: 30_encoding.md

Words and operations (R71, R75, R76), then the cycle that carries a word (R120) and the host's pseudo-operations (R80). -/

namespace Sys2Proof

/-! ### The decoder inverts the encoder -/

theorem decodeRead_cellAddr (p : Position) : decodeRead (cellAddr p) = .rdcell p := by
  simp [decodeRead_eq, cellAddr_toNat]

theorem decodeWrite_cellAddr (p : Position) (d : Byte) : decodeWrite (cellAddr p) d = .wrcell p d := by
  simp [decodeWrite_eq, cellAddr_toNat]

theorem decodeRead_unmapped {a : Byte} (h : unmapped a = true) : decodeRead a = .rdnone a := by
  obtain ⟨hcell, h80, h81, h82⟩ := (unmapped_iff a).1 h
  rw [decodeRead_eq, dif_neg hcell, if_neg h80, if_neg h81, if_neg h82]

theorem decodeWrite_unmapped {a : Byte} (h : unmapped a = true) (d : Byte) : decodeWrite a d = .wrnone a d := by
  obtain ⟨hcell, h80, h81, h82⟩ := (unmapped_iff a).1 h
  rw [decodeWrite_eq, dif_neg hcell, if_neg h80, if_neg h81, if_neg h82]

/-- The decoder on the word of a read. -/
theorem decode_readWord (a d : Byte) : decode (.bus (busWord false a d)) = .ok (decodeRead a) := by
  rw [decode, decodeBus_busWord]; rfl

/-- The decoder on the word of a write. -/
theorem decode_writeWord (a d : Byte) : decode (.bus (busWord true a d)) = .ok (decodeWrite a d) := by
  rw [decode, decodeBus_busWord]; rfl

/-- Settles O1: the word of each operation carries its address and data, and the address selects its row. -/
theorem encodeThenDecodeGivesBackEveryOperation : Obligations.EncodeThenDecodeGivesBackEveryOperation := by
  unfold Obligations.EncodeThenDecodeGivesBackEveryOperation
  intro i hwf
  cases i with
  | rdcell p => rw [encode, decode_readWord, decodeRead_cellAddr]
  | wrcell p d => rw [encode, decode_writeWord, decodeWrite_cellAddr]
  | rdbright => rw [encode, decode_readWord]; rfl
  | wrbright d => rw [encode, decode_writeWord]; rfl
  | rdctrl => rw [encode, decode_readWord]; rfl
  | wrctrl d => rw [encode, decode_writeWord]; rfl
  | rdstatus => rw [encode, decode_readWord]; rfl
  | wrstatus d => rw [encode, decode_writeWord]; rfl
  | rdnone a => rw [encode, decode_readWord, decodeRead_unmapped hwf]
  | wrnone a d => rw [encode, decode_writeWord, decodeWrite_unmapped hwf]
  | tick => rfl

/-! ### The number of a word -/

theorem busWord_toNat (we : Bool) (a d : Byte) :
    (busWord we a d).toNat = we.toNat * 0x10000 + a.toNat * 0x100 + d.toNat := by
  have ha := a.isLt
  have hd := d.isLt
  rw [busWord, BitVec.toNat_append, BitVec.toNat_append, BitVec.toNat_ofBool, ← Nat.shiftLeft_add_eq_or_of_lt ha,
    ← Nat.shiftLeft_add_eq_or_of_lt hd]
  simp only [Nat.shiftLeft_eq]
  omega

/-- The word of the number `we*0x10000 + addr*0x100 + wdata` is the word of its fields (R71). -/
theorem ofNat_fields (we : Bool) (a d : Byte) :
    BitVec.ofNat 17 (we.toNat * 0x10000 + a.toNat * 0x100 + d.toNat) = busWord we a d := by
  rw [← busWord_toNat, BitVec.ofNat_toNat, BitVec.setWidth_eq]

/-- Settles O2: the number is the word of its fields, and each half of the decoder is known by the address's value. -/
theorem busWordNumberDecodesByAddress : Obligations.BusWordNumberDecodesByAddress := by
  unfold Obligations.BusWordNumberDecodesByAddress
  intro we a d
  rw [ofNat_fields, decodeBus_busWord]
  cases we with
  | true => exact decodeWrite_eq a d
  | false => exact decodeRead_eq a

/-! ### The encoder inverts the decoder, less the data byte of a read -/

/-- What the address of a BUS word can be: a cell's, one of the three registers', or unmapped (R51). -/
theorem addr_cases (a : Byte) :
    (∃ p : Position, a = cellAddr p) ∨ a = 0x80 ∨ a = 0x81 ∨ a = 0x82 ∨ unmapped a = true := by
  by_cases hcell : a.toNat < 4
  · exact .inl ⟨⟨a.toNat, hcell⟩, by simp [cellAddr]⟩
  · simp only [unmapped_iff, ← BitVec.toNat_inj, BitVec.reduceToNat]
    omega

/-- The operation of a read is well-formed, and its word is the read's, with data 0. -/
theorem encode_decodeRead (a : Byte) :
    (decodeRead a).wellFormed = true ∧ encode (decodeRead a) = .bus (busWord false a 0) := by
  rcases addr_cases a with ⟨p, rfl⟩ | rfl | rfl | rfl | h
  · rw [decodeRead_cellAddr]; exact ⟨rfl, rfl⟩
  · exact ⟨rfl, rfl⟩
  · exact ⟨rfl, rfl⟩
  · exact ⟨rfl, rfl⟩
  · rw [decodeRead_unmapped h]; exact ⟨h, rfl⟩

/-- The operation of a write is well-formed, and its word is the write's. -/
theorem encode_decodeWrite (a d : Byte) :
    (decodeWrite a d).wellFormed = true ∧ encode (decodeWrite a d) = .bus (busWord true a d) := by
  rcases addr_cases a with ⟨p, rfl⟩ | rfl | rfl | rfl | h
  · rw [decodeWrite_cellAddr]; exact ⟨rfl, rfl⟩
  · exact ⟨rfl, rfl⟩
  · exact ⟨rfl, rfl⟩
  · exact ⟨rfl, rfl⟩
  · rw [decodeWrite_unmapped h]; exact ⟨h, rfl⟩

/-- The mask 0x1FF00 clears the data byte. -/
theorem busWord_and_mask (we : Bool) (a d : Byte) : busWord we a d &&& 0x1FF00 = busWord we a 0 := by
  have hmask : (0x1FF00 : BusWord) = busWord true (BitVec.allOnes 8) 0 := by decide
  apply BitVec.eq_of_getLsbD_eq
  intro k _
  rw [hmask, BitVec.getLsbD_and]
  simp only [busWord_getLsbD]
  by_cases h8 : k < 8
  · simp [h8]
  · by_cases h16 : k < 16
    · simp only [h8, h16, if_true, if_false, BitVec.getLsbD_allOnes, show k - 8 < 8 by omega, decide_true,
        Bool.and_true]
    · simp only [h8, h16, if_false, Bool.and_true]
      rw [Bool.and_right_comm, Bool.and_self]

/-- Settles O4: a word is put together from its fields, and each half of the decoder is inverted by the encoder. -/
theorem decodeThenEncodeGivesTheWordLessDontCares : Obligations.DecodeThenEncodeGivesTheWordLessDontCares := by
  unfold Obligations.DecodeThenEncodeGivesTheWordLessDontCares
  intro w
  obtain ⟨we, a, d, rfl⟩ : ∃ we a d, w = busWord we a d := ⟨_, _, _, (busWord_fields w).symm⟩
  rw [decodeBus_busWord, show (busWord we a d).getLsbD 16 = we from busWe_busWord we a d, busWord_and_mask]
  cases we with
  | true => exact encode_decodeWrite a d
  | false => exact encode_decodeRead a

/-! ### The rows of the opcode map -/

/-- The word of every well-formed operation is of a row with its mnemonic (R75). -/
theorem inTable_encode (i : Instr) : Laws.TableRow.Statement i := by
  cases i with
  | rdcell p => exact Laws.TableRow.rdcell p
  | wrcell p d => exact Laws.TableRow.wrcell p d
  | rdbright => exact Laws.TableRow.rdbright
  | wrbright d => exact Laws.TableRow.wrbright d
  | rdctrl => exact Laws.TableRow.rdctrl
  | wrctrl d => exact Laws.TableRow.wrctrl d
  | rdstatus => exact Laws.TableRow.rdstatus
  | wrstatus d => exact Laws.TableRow.wrstatus d
  | rdnone a => exact Laws.TableRow.rdnone a
  | wrnone a d => exact Laws.TableRow.wrnone a d
  | tick => exact Laws.TableRow.tick

/-- Every BUS word is of a row with the mnemonic of its operation: the row of the operation's own word, from which the
word differs in its data byte alone. -/
theorem exists_row_of_busWord (we : Bool) (a d : Byte) :
    ∃ r ∈ busRows, r.matches (busWord we a d) = true ∧
      r.mnemonic = (if we then decodeWrite a d else decodeRead a).mnemonic := by
  have hword : ∃ e, (if we then decodeWrite a d else decodeRead a).wellFormed = true ∧
      encode (if we then decodeWrite a d else decodeRead a) = .bus (busWord we a e) := by
    cases we with
    | true => exact ⟨d, encode_decodeWrite a d⟩
    | false => exact ⟨0, encode_decodeRead a⟩
  obtain ⟨e, hwf, henc⟩ := hword
  have hrow := inTable_encode _ hwf
  rw [henc, Laws.TableRow.inTable_data, ← Laws.TableRow.inTable_data we a d] at hrow
  simpa only [Laws.TableRow.inTable, List.any_eq_true, Bool.and_eq_true, beq_iff_eq] using hrow

/-- Two rows that agree on the bits both look at are one row: the rows do not overlap. -/
theorem row_eq_of_patterns_agree :
    ∀ r ∈ busRows, ∀ r' ∈ busRows, r.pattern &&& r'.mask = r'.pattern &&& r.mask → r' = r := by decide

/-- A word is of at most one row. -/
theorem row_unique {r r' : BusRow} {w : BusWord} (hr : r ∈ busRows) (hr' : r' ∈ busRows) (h : r.matches w = true)
    (h' : r'.matches w = true) : r' = r := by
  apply row_eq_of_patterns_agree r hr r' hr'
  rw [← eq_of_beq h, ← eq_of_beq h', BitVec.and_assoc, BitVec.and_assoc, BitVec.and_comm r.mask]

/-- Settles O3: the row of the operation's own word, by the operation; no other, by the rows' masks and patterns. -/
theorem opcodeMapRowsPartitionTheBusWords : Obligations.OpcodeMapRowsPartitionTheBusWords := by
  unfold Obligations.OpcodeMapRowsPartitionTheBusWords
  intro w
  obtain ⟨r, hr, hmatch, hname⟩ := exists_row_of_busWord (busWe w) (busAddr w) (busData w)
  rw [busWord_fields] at hmatch
  exact ⟨r, hr, hmatch, hname, fun r' hr' h' => row_unique hr hr' hmatch h'⟩

/-! ### Words of the spec -/

/-- Settles O5: each word is read by evaluation of the decoder. -/
theorem wordsOfTheSpecDecode : Obligations.WordsOfTheSpecDecode := by
  unfold Obligations.WordsOfTheSpecDecode
  decide

end Sys2Proof

namespace Sys2Proof.Machine

/-! ### The phases of a cycle are the meanings of its operations -/

/-- The state a cycle starts from, by its entry of the schedule. -/
theorem beginCycle_of_cons {s : State} {inp : CycleInput} {rest : List CycleInput} (h : s.inputs = inp :: rest) :
    beginCycle s = { s with rdata := 0, inputs := rest } := by
  rw [beginCycle, h, List.tail_cons]

section Phases

variable {inp : CycleInput}

theorem readPhase_of_not_read (h : inp.isRead = false) (s : State) : readPhase inp s = s := by
  simp [readPhase, h]

theorem tickPhase_of_not_tick (h : inp.tick = false) (s : State) : tickPhase inp s = s :=
  tickPhase_of_not_processed (by rw [h, Bool.false_and])

theorem writePhase_of_not_write (h : (inp.sel && inp.we) = false) (s : State) : writePhase inp s = s := by
  simp [writePhase, h]

/-- The read phase is the meaning of the decoded read (R90). -/
theorem exec_readPhase (hsel : inp.sel = true) (hwe : inp.we = false) (s : State) :
    exec (decodeBus (busWord inp.we inp.addr inp.wdata)) s = .next (readPhase inp s) := by
  simp [decodeBus_busWord, hwe, exec_decodeRead, readPhase, CycleInput.isRead, hsel]

/-- The tick phase is the meaning of TICK (R122). -/
theorem exec_tickPhase (h : inp.tick = true) (s : State) : exec .tick s = .next (tickPhase inp s) := by
  simp [tickPhase, h]

/-- The write phase is the meaning of the decoded write (R91). -/
theorem exec_writePhase (hsel : inp.sel = true) (hwe : inp.we = true) (s : State) :
    exec (decodeBus (busWord inp.we inp.addr inp.wdata)) s = .next (writePhase inp s) := by
  simp [decodeBus_busWord, hwe, exec_decodeWrite, writePhase, hsel]

end Phases

/-- Settles O21: a step is its cycle's phases, and each phase is the meaning of the operation that its pins carry, or
leaves the state where they carry none. -/
theorem stepRunsTheDecodedOperations : Obligations.StepRunsTheDecodedOperations := by
  unfold Obligations.StepRunsTheDecodedOperations
  refine ⟨fun s h => ?idle, fun s inp rest h hr => ?cycle⟩
  case idle => simp [step_eq, nextInput, beginCycle, h]
  case cycle =>
    have hstep := step_of_not_rst h hr
    rw [beginCycle_of_cons h] at hstep
    intro s0 i
    have hread (hsel : inp.sel = true) (hwe : inp.we = true) : readPhase inp s0 = s0 :=
      readPhase_of_not_read (by simp [CycleInput.isRead, hsel, hwe]) s0
    have hwrite (hwe : inp.we = false) (t : State) : writePhase inp t = t :=
      writePhase_of_not_write (by simp [hwe]) t
    have hnone (hsel : inp.sel = false) : step s = .next (tickPhase inp (armStage s0)) := by
      rw [hstep, writePhase_of_not_write (by simp [hsel]), readPhase_of_not_read (by simp [CycleInput.isRead, hsel])]
    refine ⟨fun hsel ht => ?_, fun hsel ht => ?_, fun hsel hwe ht => ?_, fun hsel hwe ht => ?_,
      fun hsel hwe ht => ?_, fun hsel hwe ht => ?_⟩
    · rw [hnone hsel, tickPhase_of_not_tick ht]
    · rw [hnone hsel, exec_tickPhase ht]
    · rw [hstep, hread hsel hwe, tickPhase_of_not_tick ht, exec_writePhase hsel hwe]
    · exact ⟨_, exec_tickPhase ht _, by rw [hstep, hread hsel hwe, exec_writePhase hsel hwe]⟩
    · exact ⟨_, exec_readPhase hsel hwe s0, by rw [hstep, hwrite hwe, tickPhase_of_not_tick ht]⟩
    · exact ⟨_, exec_readPhase hsel hwe s0, by rw [hstep, hwrite hwe, exec_tickPhase ht]⟩

/-! ### The cycle of a word -/

/-- The number of a BUS word, read in the 24 bits of a table row, stands for the word (R71; log entry 11). -/
theorem wordOfBits_busWord (w : BusWord) : wordOfBits 24 w.toNat = .ok (.bus w) := by
  rw [wordOfBits, if_neg (by decide), if_pos w.isLt, BitVec.ofNat_toNat, BitVec.setWidth_eq]

theorem decodeTableWord_busWord (w : BusWord) : decodeTableWord 24 w.toNat = some (decodeBus w) := by
  rw [decodeTableWord, decodeBits, wordOfBits_busWord]; rfl

/-- A BUS word is scheduled as the cycle of its fields. -/
theorem withFetchWord_busWord (s : State) (w : BusWord) :
    s.withFetchWord 24 w.toNat =
      { s with inputs := ⟨false, false, true, busWe w, busAddr w, busData w⟩ :: s.inputs } := by
  rw [State.withFetchWord, scheduleBits, wordOfBits_busWord]; rfl

/-- Settles O6: the scheduled cycle carries the word's operation alone, and a step runs what its cycle carries. -/
theorem tableWordRunsAtTheNextStep : Obligations.TableWordRunsAtTheNextStep := by
  unfold Obligations.TableWordRunsAtTheNextStep
  intro s w
  obtain ⟨-, -, hwrite, -, hread, -⟩ := stepRunsTheDecodedOperations.2
    { s with inputs := ⟨false, false, true, busWe w, busAddr w, busData w⟩ :: s.inputs } _ _ rfl rfl
  obtain ⟨-, htick, -⟩ := stepRunsTheDecodedOperations.2 { s with inputs := .tickOnly :: s.inputs } _ _ rfl rfl
  rw [busWord_fields] at hwrite hread
  rw [withFetchWord_busWord]
  exact ⟨decodeTableWord_busWord w, fun h => hwrite rfl h rfl, fun h => hread rfl h rfl, htick rfl rfl⟩

/-! ### Host writes along a run -/

/-- A run of any length ends in a state (R150). -/
theorem exists_runSteps (n : Nat) (s : State) : ∃ t, runSteps n s = .next t := by
  induction n generalizing s with
  | zero => exact ⟨s, rfl⟩
  | succ n ih =>
    rw [runSteps, step_eq, andThen_next]
    exact ih _

theorem runSteps_succ_inv {n : Nat} {s t : State} (h : runSteps (n + 1) s = .next t) :
    ∃ u, step s = .next u ∧ runSteps n u = .next t := by
  rw [runSteps, step_eq, andThen_next] at h
  exact ⟨_, step_eq s, h⟩

section Writes

variable {s t : State} {inp : CycleInput} {rest : List CycleInput}

theorem inputs_of_step (h : s.inputs = inp :: rest) (hr : inp.rst = false) (ht : step s = .next t) :
    t.inputs = rest := by
  obtain rfl := Host.Outcome.next.inj ((step_of_not_rst h hr).symm.trans ht)
  simp [h]

/-- The level after a cycle is the one written in it, or the level before (R96). -/
theorem bright_of_step (h : s.inputs = inp :: rest) (hr : inp.rst = false) (ht : step s = .next t) :
    t.bright = if inp.writes 0x80 then levelOf inp.wdata else s.bright := by
  obtain rfl := Host.Outcome.next.inj ((step_of_not_rst h hr).symm.trans ht)
  simp

theorem cellAddr_inj {p q : Position} (h : cellAddr p = cellAddr q) : p = q :=
  Fin.ext (by rw [← cellAddr_toNat, h, cellAddr_toNat])

/-- A cycle that writes a cell's address stores its byte there (R93). -/
theorem writePhase_cell_of_writes {p : Position} (hw : inp.writes (cellAddr p) = true) (s : State) :
    (writePhase inp s).cell[p] = inp.wdata := by
  obtain ⟨hsel, haddr⟩ : (inp.sel && inp.we) = true ∧ inp.addr = cellAddr p := by
    simpa [CycleInput.writes] using hw
  rw [writePhase, if_pos hsel, haddr]
  simp [busWrite, cellAddr_toNat]

/-- A cell after a cycle with no CLEAR is the byte written to it, or the byte before (R22). -/
theorem cell_of_step (h : s.inputs = inp :: rest) (hr : inp.rst = false) (hc : inp.requestsClear = false)
    (ht : step s = .next t) (p : Position) :
    t.cell[p] = if inp.writes (cellAddr p) then inp.wdata else s.cell[p] := by
  obtain rfl := Host.Outcome.next.inj ((step_of_not_rst h hr).symm.trans ht)
  split
  case isTrue hw => exact writePhase_cell_of_writes hw _
  case isFalse hw =>
    rw [writePhase_cell_of_not_writes (Bool.eq_false_iff.2 hw) hc]
    simp

theorem leavesSequencer_iff :
    inp.leavesSequencer = true ↔ inp.rst = false ∧ inp.writes 0x81 = false ∧ inp.writes 0x80 = false := by
  simp [CycleInput.leavesSequencer, and_assoc]

/-- Cycles without a reset and without a BRIGHT or CTRL write keep the level. -/
theorem bright_of_runSteps {l : List CycleInput} (h : s.inputs = l ++ rest)
    (hl : ∀ inp ∈ l, inp.leavesSequencer = true) (ht : runSteps l.length s = .next t) : t.bright = s.bright := by
  induction l generalizing s with
  | nil => rw [Host.Outcome.next.inj ht]
  | cons inp l ih =>
    obtain ⟨hinp, hl⟩ := List.forall_mem_cons.1 hl
    obtain ⟨hr, -, hw⟩ := leavesSequencer_iff.1 hinp
    obtain ⟨u, hu, hrun⟩ := runSteps_succ_inv ht
    rw [ih (inputs_of_step h hr hu) hl hrun, bright_of_step h hr hu, hw]
    rfl

/-- Where every write to a cell in such cycles is of one byte, and the cell is written or held that byte before, it holds
that byte after. -/
theorem cell_of_runSteps {l : List CycleInput} (h : s.inputs = l ++ rest)
    (hl : ∀ inp ∈ l, inp.leavesSequencer = true) (ht : runSteps l.length s = .next t) {p : Position} {d : Byte}
    (hdata : ∀ inp ∈ l, inp.writes (cellAddr p) = true → inp.wdata = d)
    (hd : s.cell[p] = d ∨ ∃ inp ∈ l, inp.writes (cellAddr p) = true) : t.cell[p] = d := by
  induction l generalizing s with
  | nil =>
    obtain rfl := Host.Outcome.next.inj ht
    exact hd.resolve_right (by simp)
  | cons inp l ih =>
    obtain ⟨hinp, hl⟩ := List.forall_mem_cons.1 hl
    obtain ⟨hwdata, hdata⟩ := List.forall_mem_cons.1 hdata
    obtain ⟨hr, hctrl, -⟩ := leavesSequencer_iff.1 hinp
    obtain ⟨u, hu, hrun⟩ := runSteps_succ_inv ht
    have hcell := cell_of_step h hr (no_request_of_not_ctrl hctrl).2 hu p
    refine ih (inputs_of_step h hr hu) hl hrun hdata ?_
    by_cases hw : inp.writes (cellAddr p) = true
    · exact .inl (by rw [hcell, if_pos hw, hwdata hw])
    · rw [hcell, if_neg hw]
      exact hd.imp_right fun hex => by simpa [hw] using hex

end Writes

/-! ### The pseudo-operations -/

theorem writes_wr (a b d : Byte) : (CycleInput.wr a d).writes b = (a == b) := rfl

theorem leavesSequencer_wr {a : Byte} (h81 : a ≠ 0x81) (h80 : a ≠ 0x80) (d : Byte) :
    (CycleInput.wr a d).leavesSequencer = true :=
  leavesSequencer_iff.2 ⟨rfl, beq_false_of_ne h81, beq_false_of_ne h80⟩

/-- A saturated integer is a byte's two's-complement value (R80). -/
theorem sat8_toInt (v : Int) : (sat8 v).toInt = max (-128) (min 127 v) := by
  rw [sat8, clamp_eq_max_min (by decide), BitVec.toInt_ofInt]
  exact Int.bmod_eq_of_le (by omega) (by omega)

/-- Saturating to a byte first does not change the level an integer is clamped to (R80, R96). -/
theorem levelOf_sat8 (v : Int) : ((levelOf (sat8 v)).toNat : Int) = max 0 (min 3 v) := by
  rw [levelOf_toNat, sat8_toInt]
  omega

/-- Settles O45: the read returns the byte of the level the write left, and the level is that of the saturated integer. -/
theorem setThenGetBrightnessClampsEveryInteger : Obligations.SetThenGetBrightnessClampsEveryInteger := by
  unfold Obligations.SetThenGetBrightnessClampsEveryInteger
  intro v s rest hin
  have hin' : s.inputs = .wr 0x80 (sat8 v) :: .rd 0x80 :: rest := hin
  obtain ⟨t, hrun, -, hrdata, -⟩ := writtenByteReadsBackInTheNextCycle s 0x80 (sat8 v) false false rest hin'
  obtain ⟨u, hwrite, hrest⟩ := runSteps_succ_inv hrun
  obtain ⟨_, hread, hend⟩ := runSteps_succ_inv hrest
  obtain rfl : t = _ := (Host.Outcome.next.inj hend).symm
  have hlevel : t.bright = levelOf (sat8 v) := by
    rw [bright_of_step (inputs_of_step hin' rfl hwrite) rfl hread, bright_of_step hin' rfl hwrite]
    rfl
  refine ⟨t, hrun, ?_, by rw [hlevel, levelOf_sat8]⟩
  rw [hrdata rfl, ← levelOf_toNat, levelOf_sat8]

theorem mem_expand_writeCell {p : Int} {v : Byte} {inp : CycleInput} :
    inp ∈ (PseudoOp.writeCell p v).expand ↔ (0 ≤ p ∧ p ≤ 0x7F) ∧ inp = .wr (BitVec.ofInt 8 p) v := by
  simp only [PseudoOp.expand]
  split <;> simp [*]

/-- A position in the range of `write_cell` is its own address. -/
theorem ofInt_eq_iff {p : Int} (h : 0 ≤ p ∧ p ≤ 0x7F) (a : Byte) : BitVec.ofInt 8 p = a ↔ (a.toNat : Int) = p := by
  rw [← BitVec.toNat_inj, BitVec.toNat_ofInt]
  omega

/-- No integer in the range of `write_cell` is the address of BRIGHT, CTRL or STATUS. -/
theorem ofInt_ne {p : Int} (h : 0 ≤ p ∧ p ≤ 0x7F) {a : Byte} (ha : 0x7F < a.toNat) : BitVec.ofInt 8 p ≠ a := by
  rw [Ne, ofInt_eq_iff h]
  omega

/-- Settles O46: the expansion's write, if any, names a cell exactly where the integer is the cell's position. -/
theorem writeCellIgnoresOutOfRangePositions : Obligations.WriteCellIgnoresOutOfRangePositions := by
  unfold Obligations.WriteCellIgnoresOutOfRangePositions
  intro p v s rest hin
  have hleaves : ∀ inp ∈ (PseudoOp.writeCell p v).expand, inp.leavesSequencer = true := by
    intro inp hinp
    obtain ⟨hp, rfl⟩ := mem_expand_writeCell.1 hinp
    exact leavesSequencer_wr (ofInt_ne hp (by decide)) (ofInt_ne hp (by decide)) v
  obtain ⟨t, ht⟩ := exists_runSteps (PseudoOp.writeCell p v).expand.length s
  refine ⟨t, ht, fun q => cell_of_runSteps hin hleaves ht ?data ?written⟩
  case data =>
    intro inp hinp hw
    obtain ⟨hp, rfl⟩ := mem_expand_writeCell.1 hinp
    have hq : (q.val : Int) = p := by rw [← cellAddr_toNat, ← ofInt_eq_iff hp]; exact eq_of_beq hw
    rw [if_pos hq]
    rfl
  case written =>
    by_cases hq : (q.val : Int) = p
    · have hp : 0 ≤ p ∧ p ≤ 0x7F := by omega
      refine .inr ⟨_, mem_expand_writeCell.2 ⟨hp, rfl⟩, ?_⟩
      rw [writes_wr, beq_iff_eq, ofInt_eq_iff hp, cellAddr_toNat, hq]
    · rw [if_neg hq]
      exact .inl rfl

/-- The writes of `write_all` are one per position. -/
theorem mem_expand_writeAll {a b c d : Byte} {inp : CycleInput} :
    inp ∈ (PseudoOp.writeAll a b c d).expand ↔ ∃ p : Position, .wr (cellAddr p) #v[a, b, c, d][p] = inp := by
  have hmap : (PseudoOp.writeAll a b c d).expand =
      (List.finRange 4).map fun p => .wr (cellAddr p) #v[a, b, c, d][p] := rfl
  simp [hmap]

/-- Settles O47: whatever their order and ticks, the writes to a cell are of its one byte, and one of them comes. -/
theorem writeAllHasOneFinalBufferInAnyOrder : Obligations.WriteAllHasOneFinalBufferInAnyOrder := by
  unfold Obligations.WriteAllHasOneFinalBufferInAnyOrder
  intro a b c d l rest s hperm hin
  have hmem {inp : CycleInput} (h : inp ∈ l) :
      ∃ p : Position, .wr (cellAddr p) #v[a, b, c, d][p] = { inp with tick := false } :=
    mem_expand_writeAll.1 (hperm.mem_iff.1 (List.mem_map_of_mem h))
  have hleaves : ∀ inp ∈ l, inp.leavesSequencer = true := by
    intro inp hinp
    obtain ⟨p, hp⟩ := hmem hinp
    change { inp with tick := false }.leavesSequencer = true
    rw [← hp]
    exact leavesSequencer_wr (cellAddr_ne_ctrl p) (cellAddr_ne_bright p) _
  have hlen : l.length = 4 := by simpa [PseudoOp.expand] using hperm.length_eq
  obtain ⟨t, ht⟩ := exists_runSteps l.length s
  have hcell (p : Position) : t.cell[p] = #v[a, b, c, d][p] := by
    refine cell_of_runSteps hin hleaves ht (fun inp hinp hw => ?data) (.inr ?written)
    case data =>
      obtain ⟨q, hq⟩ := hmem hinp
      have hw' : { inp with tick := false }.writes (cellAddr p) = true := hw
      rw [← hq, writes_wr, beq_iff_eq] at hw'
      obtain rfl := cellAddr_inj hw'
      exact (congrArg CycleInput.wdata hq).symm
    case written =>
      obtain ⟨inp, hinp, heq⟩ := List.mem_map.1 (hperm.mem_iff.2 (mem_expand_writeAll.2 ⟨p, rfl⟩))
      refine ⟨inp, hinp, ?_⟩
      change { inp with tick := false }.writes (cellAddr p) = true
      rw [heq, writes_wr, beq_self_eq_true]
  exact ⟨t, hlen ▸ ht, Vector.ext fun i hi => hcell ⟨i, hi⟩, bright_of_runSteps hin hleaves ht⟩

end Sys2Proof.Machine

/-! ## The host registers: 40_bus_registers.md

What a read drives (R92 to R106), what a write leaves (R93 to R107), and the cycle that puts a host operation between the
state before the edge and the tick (R90, R91, R120). -/

namespace Sys2Proof.Machine

/-! ### The bytes a read drives -/

theorem brightByte_toNat (s : State) : (brightByte s).toNat = s.bright.toNat :=
  BitVec.toNat_setWidth_of_le (by decide)

theorem ctrlByte_toNat (s : State) : (ctrlByte s).toNat = s.en.toNat := by
  rw [ctrlByte, BitVec.toNat_setWidth_of_le (by decide), BitVec.toNat_ofBool]

/-- `EN` is in bit 0 and every other bit is 0 (R98). -/
theorem ctrlByte_getLsbD (s : State) (k : Nat) : (ctrlByte s).getLsbD k = (decide (k = 0) && s.en) := by
  rw [ctrlByte, BitVec.getLsbD_setWidth, BitVec.getLsbD_ofBool]
  by_cases h : k = 0 <;> simp [h]

/-- STATUS bit by bit: `POS` in 2..0, `PH` in 3, `DIV` in 6..4, 0 above (R104). -/
theorem statusByte_getLsbD (s : State) (k : Nat) :
    (statusByte s).getLsbD k =
      if k < 3 then s.pos.getLsbD k else if k = 3 then s.ph else s.div.getLsbD (k - 4) := by
  show BitVec.getLsbD (w := 1 + 3 + 1 + 3) (0#1 ++ s.div ++ BitVec.ofBool s.ph ++ s.pos) k = _
  rw [BitVec.getLsbD_append, BitVec.getLsbD_append, BitVec.getLsbD_append]
  by_cases h3 : k < 3
  · simp [h3]
  · by_cases h4 : k = 3
    · simp [h4]
    · simp only [h3, h4, show ¬ k - 3 < 1 by omega, BitVec.getLsbD_zero, if_false, show k - 3 - 1 = k - 4 by omega]
      split
      · rfl
      · exact (BitVec.getLsbD_of_ge _ _ (by omega)).symm

/-- STATUS as a number (R104). -/
theorem statusByte_toNat (s : State) : (statusByte s).toNat = 16 * s.div.toNat + 8 * s.ph.toNat + s.pos.toNat := by
  have hph : (BitVec.ofBool s.ph).toNat < 2 ^ 1 := BitVec.isLt _
  rw [statusByte, BitVec.toNat_append, BitVec.toNat_append, BitVec.toNat_append,
    ← Nat.shiftLeft_add_eq_or_of_lt s.pos.isLt, ← Nat.shiftLeft_add_eq_or_of_lt hph,
    ← Nat.shiftLeft_add_eq_or_of_lt s.div.isLt, BitVec.toNat_ofBool]
  simp only [Nat.shiftLeft_eq, BitVec.toNat_zero]
  omega

/-- Settles O7: each read drives the byte of its register's layout on the port, and the layouts are known bit by bit. -/
theorem readsDriveTheirByteAndChangeNoRegister : Obligations.ReadsDriveTheirByteAndChangeNoRegister := by
  unfold Obligations.ReadsDriveTheirByteAndChangeNoRegister
  intro s
  refine ⟨fun p => exec_rdcell p s, ⟨_, exec_rdbright s, brightByte_toNat s, rfl⟩,
    ⟨_, exec_rdctrl s, ctrlByte_getLsbD s, rfl⟩,
    ⟨_, exec_rdstatus s, ?top, ?div, ?ph, ?pos, rfl⟩, fun a => exec_rdnone a s⟩
  case top => exact (statusByte_getLsbD s 7).trans (BitVec.getLsbD_of_ge _ _ (by decide))
  case ph => exact statusByte_getLsbD s 3
  case div =>
    apply BitVec.eq_of_getLsbD_eq
    intro k hk
    simp [statusByte_getLsbD, hk, show ¬ 4 + k < 3 by omega, show 4 + k ≠ 3 by omega]
  case pos =>
    apply BitVec.eq_of_getLsbD_eq
    intro k hk
    simp [statusByte_getLsbD, hk]

/-! ### What a write leaves -/

/-- A stored cell is read at its own address, and every other address reads as before (R93). -/
theorem busRead_setCell (s : State) (p : Position) (d a : Byte) :
    busRead (s.setCell p d) a = if a.toNat = p.val then d else busRead s a := by
  by_cases h : a.toNat < 4
  · rw [busRead_of_lt h, busRead_of_lt h, State.setCell_cell]
    simp [Vector.getElem_set, eq_comm]
  · have hp : a.toNat ≠ p.val := by omega
    rw [if_neg hp, busRead, busRead, isCellAddr_eq]
    simp only [h, decide_false, Bool.false_eq_true, if_false]
    rfl

/-- Settles O8: a cell write sets one entry of the display buffer and no other field. -/
theorem writeCellStoresTheByteAndNothingElse : Obligations.WriteCellStoresTheByteAndNothingElse := by
  unfold Obligations.WriteCellStoresTheByteAndNothingElse
  intro p d s
  refine ⟨_, exec_wrcell p d s, ?same, fun q hq => ?other, rfl, busRead_setCell s p d⟩
  case same => simp
  case other => simpa using Vector.getElem_set_ne p.isLt q.isLt (Fin.val_ne_of_ne hq.symm)

/-- The clamp of R96 in bits: a negative byte gives 0, a byte with a bit of 6..2 set gives 3, any other its own two bits. -/
theorem levelOf_eq (d : Byte) :
    levelOf d = if d.getLsbD 7 then 0 else if d.extractLsb' 2 5 ≠ 0 then 3 else d.extractLsb' 0 2 := by
  have hlevel := levelOf_toNat d
  have hd := d.isLt
  have hhigh : (d.extractLsb' 2 5).toNat = d.toNat / 4 % 32 := by
    rw [BitVec.extractLsb'_toNat, Nat.shiftRight_eq_div_pow]
  have hlow : (d.extractLsb' 0 2).toNat = d.toNat % 4 := by
    rw [BitVec.extractLsb'_toNat, Nat.shiftRight_zero]
  have hsign : d.getLsbD 7 = decide (128 ≤ d.toNat) := BitVec.msb_eq_decide d
  rw [BitVec.toInt_eq_toNat_cond] at hlevel
  simp only [hsign, decide_eq_true_eq]
  apply BitVec.eq_of_toNat_eq
  split
  · show (levelOf d).toNat = 0
    omega
  · split
    next hne =>
      show (levelOf d).toNat = 3
      have hhigh_ne : d.toNat / 4 % 32 ≠ 0 := fun h0 => hne (BitVec.eq_of_toNat_eq (hhigh.trans h0))
      omega
    next hzero =>
      have hhigh_zero : d.toNat / 4 % 32 = 0 := by rw [← hhigh, not_not.1 hzero]; rfl
      omega

theorem busRead_setBright_of_ne {a : Byte} (h : a ≠ 0x80) (s : State) (b : Level) :
    busRead (s.setBright b) a = busRead s a := by
  unfold busRead
  rw [if_neg h, if_neg h]
  rfl

/-- Settles O9: both forms of the clamp, and the level is in the byte of BRIGHT alone. -/
theorem writeBrightnessClampsTheSignedByte : Obligations.WriteBrightnessClampsTheSignedByte := by
  unfold Obligations.WriteBrightnessClampsTheSignedByte
  intro d s
  exact ⟨_, exec_wrbright d s, levelOf_eq d, levelOf_toNat d, rfl, fun a ha => busRead_setBright_of_ne ha s _⟩

/-- Settles O10, by the two bits that request an action. -/
theorem writeControlPerformsTheRequestedActions : Obligations.WriteControlPerformsTheRequestedActions := by
  unfold Obligations.WriteControlPerformsTheRequestedActions
  intro d s
  have hinit : wantsInit d = d.getLsbD 0 := rfl
  have hclear : wantsClear d = d.getLsbD 1 := rfl
  rw [exec_wrctrl, hinit, hclear]
  cases d.getLsbD 0 <;> cases d.getLsbD 1 <;> simp [initAction, clearAction, onDiv_eq]

/-- A write to STATUS or to an unmapped address is of no register (R105, R107). -/
theorem busWrite_of_ignored {a : Byte} (h : a = 0x82 ∨ unmapped a = true) (s : State) (d : Byte) :
    busWrite s a d = s := by
  rcases h with rfl | h
  · rfl
  · have hexec := exec_decodeWrite a d s
    rw [decodeWrite_unmapped h, exec_wrnone] at hexec
    exact (Host.Outcome.next.inj hexec).symm

/-- Settles O11: beside an ignored write no phase of the cycle depends on `sel`. -/
theorem ignoredWritesChangeNothing : Obligations.IgnoredWritesChangeNothing := by
  unfold Obligations.IgnoredWritesChangeNothing
  refine ⟨fun a d s => ⟨exec_wrstatus d s, exec_wrnone a d s⟩, fun s inp rest hsel hwe haddr => ?_⟩
  have hread (t : State) : readPhase { inp with sel := false } t = readPhase inp t := by
    rw [readPhase_of_not_read rfl, readPhase_of_not_read (by simp [CycleInput.isRead, hsel, hwe])]
  have hwrite (t : State) : writePhase { inp with sel := false } t = writePhase inp t := by
    rw [writePhase_of_not_write rfl, writePhase, busWrite_of_ignored haddr, ite_self]
  have hcycle (t : State) : cycleResult { inp with sel := false } t = cycleResult inp t := by
    rw [cycleResult, cycleResult, hread, hwrite]
    rfl
  rw [step_eq, step_eq]
  exact congrArg Host.Outcome.next (hcycle _).symm

/-! ### The cycle and its port -/

/-- The state with its two fields that are no register set: what the port carries, and the schedule to come. -/
def State.withPort (s : State) (d : Byte) (rest : List CycleInput) : State := { s with rdata := d, inputs := rest }

theorem armStage_withPort (s : State) (d : Byte) (l : List CycleInput) :
    armStage (s.withPort d l) = (armStage s).withPort d l := by
  cases h : s.arm <;> simp [armStage, State.withPort, h]

theorem tickEffect_withPort (s : State) (d : Byte) (l : List CycleInput) :
    tickEffect (s.withPort d l) = (tickEffect s).withPort d l := by
  have hphase : phaseOf (s.withPort d l) = phaseOf s := rfl
  unfold tickEffect
  rw [hphase]
  cases phaseOf s with
  | display i => rfl
  | pause => rfl

theorem tickPhase_withPort (inp : CycleInput) (s : State) (d : Byte) (l : List CycleInput) :
    tickPhase inp (s.withPort d l) = (tickPhase inp s).withPort d l := by
  unfold tickPhase
  rw [tickEffect_withPort]
  exact (apply_ite (State.withPort · d l) _ _ _).symm

theorem busWrite_withPort (s : State) (a b d : Byte) (l : List CycleInput) :
    busWrite (s.withPort d l) a b = (busWrite s a b).withPort d l := by
  unfold busWrite
  split
  · rfl
  · split
    · rfl
    · split
      · cases wantsInit b <;> cases wantsClear b <;> rfl
      · rfl

theorem writePhase_withPort (inp : CycleInput) (s : State) (d : Byte) (l : List CycleInput) :
    writePhase inp (s.withPort d l) = (writePhase inp s).withPort d l := by
  unfold writePhase
  rw [busWrite_withPort]
  exact (apply_ite (State.withPort · d l) _ _ _).symm

/-- The read phase sets the port alone, from the state before the edge (R90). -/
theorem readPhase_beginCycle {s : State} {inp : CycleInput} {rest : List CycleInput} (h : s.inputs = inp :: rest) :
    readPhase inp (beginCycle s) = s.withPort (if inp.isRead then busRead s inp.addr else 0x00) rest := by
  rw [readPhase, busRead_beginCycle, beginCycle_of_cons h]
  split <;> rfl

/-- Settles O22: the port and the schedule pass through the arm stage, the tick and the write untouched and unread. -/
theorem stepFollowsTheCycleOrder : Obligations.StepFollowsTheCycleOrder := by
  unfold Obligations.StepFollowsTheCycleOrder
  intro s inp rest hin hr
  rw [step_of_not_rst hin hr, readPhase_beginCycle hin, armStage_withPort, tickPhase_withPort, writePhase_withPort,
    tickPhase, armStage_en]
  rfl

theorem busRead_ctrl (s : State) : busRead s 0x81 = ctrlByte s := rfl

theorem busRead_status (s : State) : busRead s 0x82 = statusByte s := rfl

/-- Settles O27: the port holds what the address map read before the edge, and each register's byte is known as a number. -/
theorem readAnswersFromTheStateBeforeTheEdge : Obligations.ReadAnswersFromTheStateBeforeTheEdge := by
  unfold Obligations.ReadAnswersFromTheStateBeforeTheEdge
  intro s inp rest hin hr
  obtain ⟨t, ht⟩ : ∃ t, step s = .next t := ⟨_, step_eq s⟩
  have hport := rdata_of_step hin hr ht
  refine ⟨t, ht, fun hno => by simpa [hno] using hport, fun hread => ?_⟩
  rw [hport, if_pos hread]
  refine ⟨fun h => busRead_of_lt h s, fun h => ?bright, fun h => ?ctrl, fun h => ?status, fun h => busRead_unmapped h s⟩
  case bright => rw [h, busRead_bright, brightByte_toNat]
  case ctrl => rw [h, busRead_ctrl, ctrlByte_toNat]
  case status => rw [h, busRead_status, statusByte_toNat]

/-- Settles O48: a reset cycle keeps what its read drove on the port and nothing else of the state before. -/
theorem readBesideResetReturnsTheValueFromBefore : Obligations.ReadBesideResetReturnsTheValueFromBefore := by
  unfold Obligations.ReadBesideResetReturnsTheValueFromBefore
  intro s inp rest hin hr hread
  rw [step_cons hin, runCycle_eq, cycleResult, if_pos hr, readPhase_beginCycle hin, if_pos hread]
  rfl

/-! ### CLEAR -/

/-- A cycle that requests CLEAR writes CTRL and nothing else. -/
theorem writePhase_of_requestsClear {inp : CycleInput} (hc : inp.requestsClear = true) (s : State) :
    writePhase inp s = controlActions inp s := by
  have hctrl : inp.writes 0x81 ≠ false := fun h => by simp [no_request_of_not_ctrl h] at hc
  rcases writePhase_cases inp s with ⟨p, -, -, h, -⟩ | ⟨-, h, -⟩ | ⟨-, -, he⟩ | ⟨-, h, -⟩
  · exact absurd h hctrl
  · exact absurd h hctrl
  · exact he
  · exact absurd h hctrl

/-- With every line deasserted no segment is lit (R24). -/
theorem lit_of_lines_off {s : State} (h : s.dign = 0b1111) (i : Position) (x : Segment) : lit s i x = false := by
  have hline : (0b1111 : DigLines).getLsbD i.val = true := by revert i; decide
  rw [lit, selected, digPort, h, hline, Bool.not_true, Bool.false_and]

/-- Settles O29: the write comes last in its cycle, so its CLEAR stands over the arm stage and the tick, and an INIT
beside it writes none of these registers. -/
theorem clearBlanksTheOutputsInItsCycle : Obligations.ClearBlanksTheOutputsInItsCycle := by
  unfold Obligations.ClearBlanksTheOutputsInItsCycle
  intro s inp rest hin hr hc
  have hstep := step_of_not_rst hin hr
  rw [writePhase_of_requestsClear hc] at hstep
  refine ⟨_, hstep, fun p => ?cells, by simp [hc], by simp [hc], by simp [hc], by simp,
    lit_of_lines_off (by simp [hc])⟩
  case cells =>
    rw [controlActions_cell, if_pos hc]
    exact Vector.getElem_replicate p.isLt

end Sys2Proof.Machine

/-! ## The tick: 41_multiplex_tick.md

The operation TICK from every state (R122 to R126, R132), then what an edge leaves by the tick it processes, and from it
the timelines of R130 and R131 and the multiplex cycle of R128. -/

namespace Sys2Proof.Machine

/-! ### TICK as an operation -/

/-- Settles O13: below 4 the position register selects its own position, whose display step is the tick. -/
theorem tickAtPositionDisplaysIt : Obligations.TickAtPositionDisplaysIt := by
  unfold Obligations.TickAtPositionDisplaysIt
  intro s i hen hpos
  have hlt : s.pos.toNat < 4 := hpos ▸ i.isLt
  have hphase : phaseOf s = .display i := by rw [phaseOf_of_lt hlt]; exact congrArg _ (Fin.ext hpos)
  have hexec : exec .tick s = .next (displayStep i s.bright s.deassert) := by
    rw [exec_tick_of_en hen, tickEffect_display hphase]
  refine ⟨_, hexec, ?_, selectLine_getLsbD i, ?_⟩
  · rw [displayStep_pos, BitVec.toNat_ofNat]; omega
  · rw [← onDiv_eq]; rfl

/-- Settles O14: from 4 on, level 3 selects DISPLAY(0). -/
theorem tickAfterLastPositionSkipsPauseAtFullLevel : Obligations.TickAfterLastPositionSkipsPauseAtFullLevel := by
  unfold Obligations.TickAfterLastPositionSkipsPauseAtFullLevel
  intro s hen hpos hb
  have hdiv : onDiv s.bright = 4 := by rw [onDiv_eq, if_pos hb]
  rw [exec_tick_of_en hen, tickEffect_display (phaseOf_skip hpos hb), ← hdiv]
  rfl

/-- Settles O15: from 4 on, a level below 3 selects PAUSE. -/
theorem tickAfterLastPositionPausesBelowFullLevel : Obligations.TickAfterLastPositionPausesBelowFullLevel := by
  unfold Obligations.TickAfterLastPositionPausesBelowFullLevel
  intro s hen hpos hb
  refine ⟨pauseStep s.bright s.deassert, ?_, offDiv_toNat hb, rfl⟩
  rw [exec_tick_of_en hen, tickEffect_pause (phaseOf_pause hpos hb.ne)]

theorem exec_tick_of_not_en {s : State} (h : s.en = false) : exec .tick s = .next s := by
  rw [exec_tick, if_neg (by simp [h])]

/-- While `EN` = 0 the tick pin has no part in a cycle (R122). -/
theorem cycleResult_without_tick {s : State} (h : s.en = false) (inp : CycleInput) :
    cycleResult { inp with tick := false } s = cycleResult inp s := by
  have htick : tickPhase inp (armStage (readPhase inp s)) = armStage (readPhase inp s) :=
    tickPhase_of_not_processed (by simp [h])
  unfold cycleResult
  rw [htick]
  rfl

/-- Settles O16: with `EN` = 0 neither the operation nor the tick phase of a cycle does anything. -/
theorem tickWhileDisabledIsDropped : Obligations.TickWhileDisabledIsDropped := by
  unfold Obligations.TickWhileDisabledIsDropped
  intro s hen
  refine ⟨exec_tick_of_not_en hen, fun inp rest hin => ?_⟩
  have hcycle := cycleResult_without_tick (s := beginCycle s) hen inp
  rw [beginCycle_of_cons hin] at hcycle
  rw [step_cons hin, step_cons (s := { s with inputs := { inp with tick := false } :: rest }) rfl, runCycle_eq,
    runCycle_eq, beginCycle_of_cons hin]
  exact congrArg Host.Outcome.next hcycle.symm

/-- The state with the registers set that a tick does not read: `PH`, `SEG` and `DIV` (R132). -/
def State.withOutputs (s : State) (x : Bool) (y : Byte) (z : DivClass) : State := { s with ph := x, seg := y, div := z }

/-- A display step overwrites all three. -/
theorem tickEffect_withOutputs_display {s : State} {i : Position} (h : phaseOf s = .display i) (x : Bool) (y : Byte)
    (z : DivClass) : tickEffect (s.withOutputs x y z) = tickEffect s := by
  rw [tickEffect_display h, tickEffect_display (s := s.withOutputs x y z) h]
  rfl

/-- The pause step overwrites `PH` and `DIV`. -/
theorem tickEffect_withOutputs_pause {s : State} (h : phaseOf s = .pause) (x : Bool) (y : Byte) (z : DivClass) :
    tickEffect (s.withOutputs x y z) = { tickEffect s with seg := y } := by
  rw [tickEffect_pause h, tickEffect_pause (s := s.withOutputs x y z) h]
  rfl

/-- Below 4 or at level 3 a tick displays some position (R124, R125). -/
theorem exists_display {s : State} (h : s.pos.toNat < 4 ∨ s.bright.toNat = 3) : ∃ i, phaseOf s = .display i := by
  by_cases hlt : s.pos.toNat < 4
  · exact ⟨_, phaseOf_of_lt hlt⟩
  · exact ⟨0, phaseOf_skip (Nat.not_lt.1 hlt) (h.resolve_left hlt)⟩

/-- Settles O18, by the phase: none of the three registers selects it, and its step overwrites them, save a pause `SEG`. -/
theorem tickReadsNeitherPhaseNorOutputs : Obligations.TickReadsNeitherPhaseNorOutputs := by
  unfold Obligations.TickReadsNeitherPhaseNorOutputs
  intro s x y z
  by_cases hen : s.en = true
  case pos =>
    refine ⟨_, _, exec_tick_of_en hen, exec_tick_of_en (s := s.withOutputs x y z) hen, tickEffect_cell s,
      tickEffect_bright s, fun _ hshow => ?_, fun _ hpos hb => ?_, fun hoff => by simp [hoff] at hen⟩
    · obtain ⟨i, hi⟩ := exists_display hshow
      exact tickEffect_withOutputs_display hi x y z
    · exact tickEffect_withOutputs_pause (phaseOf_pause hpos hb.ne) x y z
  case neg =>
    have hoff : s.en = false := Bool.eq_false_iff.2 hen
    exact ⟨s, _, exec_tick_of_not_en hoff, exec_tick_of_not_en (s := s.withOutputs x y z) hoff, rfl, rfl,
      fun h => absurd h hen, fun h => absurd h hen, fun _ => rfl⟩

/-! ### What an edge leaves -/

theorem nextInput_of_cons {s : State} {inp : CycleInput} {rest : List CycleInput} (h : s.inputs = inp :: rest) :
    nextInput s = inp := by
  rw [nextInput, h, List.headD_cons]

/-- The state the tick phase of the next cycle is given: after the read and the arm stage (R120, R121). -/
def beforeTick (s : State) : State := armStage (readPhase (nextInput s) (beginCycle s))

section Edge

variable {s t : State}

/-- What an edge with `rst` = 0 can do before its host write: the display step, the pause step, or no tick at all. -/
theorem step_cases (hr : (nextInput s).rst = false) (h : step s = .next t) :
    (processesTick (nextInput s) s = true ∧ ∃ i, phaseOf s = .display i ∧
      t = writePhase (nextInput s) (displayStep i s.bright (beforeTick s).deassert)) ∨
    (processesTick (nextInput s) s = true ∧ phaseOf s = .pause ∧
      t = writePhase (nextInput s) (pauseStep s.bright (beforeTick s).deassert)) ∨
    (processesTick (nextInput s) s = false ∧ t = writePhase (nextInput s) (beforeTick s)) := by
  have ht : t = writePhase (nextInput s) (tickPhase (nextInput s) (beforeTick s)) := by
    rw [eq_cycleResult_of_step h, cycleResult, if_neg (by simp [hr]), beforeTick]
  have hen : (beforeTick s).en = s.en := by simp [beforeTick]
  have hb : (beforeTick s).bright = s.bright := by simp [beforeTick]
  have hphase : phaseOf (beforeTick s) = phaseOf s := by simp [beforeTick]
  have hproc : processesTick (nextInput s) s = ((nextInput s).tick && s.en) := by simp [processesTick, hr]
  rw [hproc, ← hen, ← hphase, ← hb, ht]
  rcases tickPhase_cases (nextInput s) (beforeTick s) with ⟨htick, hon, he⟩ | ⟨hoff, he⟩
  · rw [he, htick, hon]
    rcases tickEffect_cases (beforeTick s) with ⟨i, hi, hd⟩ | ⟨hp, hd⟩
    · exact .inl ⟨rfl, i, hi, by rw [hd]⟩
    · exact .inr (.inl ⟨rfl, hp, by rw [hd]⟩)
  · exact .inr (.inr ⟨hoff, by rw [he]⟩)

/-- A processed tick needs `rst` = 0, `tick` = 1 and `EN` = 1 (R122, R153). -/
theorem processesTick_iff {inp : CycleInput} :
    processesTick inp s = true ↔ inp.rst = false ∧ inp.tick = true ∧ s.en = true := by
  simp [processesTick, and_assoc]

/-- What an edge with a processed tick does: the step of its phase, then the host write (R122). -/
theorem processed_cases (hp : processesTick (nextInput s) s = true) (h : step s = .next t) :
    (∃ i, phaseOf s = .display i ∧
      t = writePhase (nextInput s) (displayStep i s.bright (beforeTick s).deassert)) ∨
    (phaseOf s = .pause ∧ t = writePhase (nextInput s) (pauseStep s.bright (beforeTick s).deassert)) := by
  rcases step_cases (processesTick_iff.1 hp).1 h with ⟨-, hd⟩ | ⟨-, hd⟩ | ⟨hno, -⟩
  · exact .inl hd
  · exact .inr hd
  · exact absurd hp (by simp [hno])

/-- An edge without a processed tick is the read, the arm stage and the host write. -/
theorem eq_of_not_processed (hr : (nextInput s).rst = false) (hno : processesTick (nextInput s) s = false)
    (h : step s = .next t) : t = writePhase (nextInput s) (beforeTick s) := by
  rcases step_cases hr h with ⟨hp, -⟩ | ⟨hp, -⟩ | ⟨-, he⟩
  · exact absurd hp (by simp [hno])
  · exact absurd hp (by simp [hno])
  · exact he

theorem inputs_of_edge (hr : (nextInput s).rst = false) (h : step s = .next t) : t.inputs = s.inputs.tail := by
  rcases step_cases hr h with ⟨-, i, -, rfl⟩ | ⟨-, -, rfl⟩ | ⟨-, rfl⟩ <;> simp [beforeTick]

theorem en_of_edge (hr : (nextInput s).rst = false) (h : step s = .next t) :
    t.en = (s.en || (nextInput s).requestsInit) := by
  rcases step_cases hr h with ⟨-, i, -, rfl⟩ | ⟨-, -, rfl⟩ | ⟨-, rfl⟩ <;> simp [beforeTick]

/-- What holds of the level before and of one written holds of the level after (R28, R96). -/
theorem bright_of_edge {P : Level → Prop} (hb : P s.bright)
    (hw : (nextInput s).writes 0x80 = true → P (levelOf (nextInput s).wdata)) (hr : (nextInput s).rst = false)
    (h : step s = .next t) : P t.bright := by
  have hbright : t.bright = if (nextInput s).writes 0x80 then levelOf (nextInput s).wdata else s.bright := by
    rcases step_cases hr h with ⟨-, i, -, rfl⟩ | ⟨-, -, rfl⟩ | ⟨-, rfl⟩ <;> simp [beforeTick]
  rw [hbright]
  split
  · exact hw ‹_›
  · exact hb

/-- A processed tick turns every line off, and a CLEAR beside it leaves them so (R123). -/
theorem dign_of_processed (hp : processesTick (nextInput s) s = true) (h : step s = .next t) : t.dign = 0b1111 := by
  rcases processed_cases hp h with ⟨i, -, rfl⟩ | ⟨-, rfl⟩ <;> simp

/-- Settles O36: a reset, a CLEAR and a processed tick leave every line off, and no other cycle writes `SEG`. -/
theorem segmentBusChangesOnlyWithLinesOff : Obligations.SegmentBusChangesOnlyWithLinesOff := by
  unfold Obligations.SegmentBusChangesOnlyWithLinesOff
  intro s t ht hseg
  cases hr : (nextInput s).rst with
  | true =>
    rw [eq_cycleResult_of_step ht, cycleResult, if_pos hr]
    rfl
  | false =>
    rcases step_cases hr ht with ⟨hp, -⟩ | ⟨hp, -⟩ | ⟨-, rfl⟩
    · exact dign_of_processed hp ht
    · exact dign_of_processed hp ht
    · cases hc : (nextInput s).requestsClear with
      | true => simp [hc]
      | false => simp [hc, beforeTick] at hseg

/-- Settles O40: both ticks turn the lines off, and the second overwrites what the first left pending, or cancels it. -/
theorem backToBackTickSuppressesTheDigit : Obligations.BackToBackTickSuppressesTheDigit := by
  unfold Obligations.BackToBackTickSuppressesTheDigit
  intro s a b rest hin hpa hbr hbt
  obtain ⟨t, ht⟩ : ∃ t, step s = .next t := ⟨_, step_eq s⟩
  obtain ⟨u, hu⟩ : ∃ u, step t = .next u := ⟨_, step_eq t⟩
  obtain ⟨har, -, hen⟩ := processesTick_iff.1 hpa
  obtain rfl := nextInput_of_cons hin
  have hnext : nextInput t = b := nextInput_of_cons (inputs_of_step hin har ht)
  have hent : t.en = true := by rw [en_of_edge har ht, hen, Bool.true_or]
  have hpb : processesTick (nextInput t) t = true := processesTick_iff.2 (hnext ▸ ⟨hbr, hbt, hent⟩)
  refine ⟨t, u, ht, hu, dign_of_processed hpa ht, dign_of_processed hpb hu, fun harm => ?_⟩
  rcases processed_cases hpb hu with ⟨i, hi, rfl⟩ | ⟨-, rfl⟩
  · exact ⟨i, hi, by simp⟩
  · simp at harm

end Edge

/-! ### Quiet cycles: the timelines of R130 -/

/-- No reset, no tick and no CLEAR: what R130 asks of the cycles after a tick. -/
def CycleInput.Quiet (q : CycleInput) : Prop := q.rst = false ∧ q.tick = false ∧ q.requestsClear = false

section Quiet

variable {s t : State} {l rest : List CycleInput}

/-- What every cycle of a kind keeps, a run of such cycles keeps. -/
theorem runSteps_keeps_over {C : CycleInput → Prop} {P : State → Prop} (hrst : ∀ q, C q → q.rst = false)
    (hstep : ∀ s t, C (nextInput s) → P s → step s = .next t → P t) (hin : s.inputs = l ++ rest) (hl : ∀ q ∈ l, C q)
    (hs : P s) (h : runSteps l.length s = .next t) : P t := by
  induction l generalizing s with
  | nil => exact Host.Outcome.next.inj h ▸ hs
  | cons q l ih =>
    obtain ⟨hq, hl⟩ := List.forall_mem_cons.1 hl
    obtain ⟨u, hu, hrun⟩ := runSteps_succ_inv h
    have hnext : C (nextInput s) := (nextInput_of_cons hin).symm ▸ hq
    exact ih (inputs_of_step hin (hrst q hq) hu) hl (hstep s u hnext hs hu) hrun

theorem eq_of_quiet (hq : (nextInput s).Quiet) (h : step s = .next t) :
    t = writePhase (nextInput s) (beforeTick s) := by
  obtain ⟨hr, ht, -⟩ := hq
  have hno : processesTick (nextInput s) s ≠ true := fun hp => by simp [processesTick_iff, ht] at hp
  exact eq_of_not_processed hr (Bool.eq_false_iff.2 hno) h

theorem seg_of_quiet_run (hin : s.inputs = l ++ rest) (hl : ∀ q ∈ l, q.Quiet) (h : runSteps l.length s = .next t) :
    t.seg = s.seg := by
  refine runSteps_keeps_over (P := fun u => u.seg = s.seg) (fun q hq => hq.1) (fun u v hq hu hv => ?_) hin hl rfl h
  rw [eq_of_quiet hq hv, ← hu]
  simp [hq.2.2, beforeTick]

/-- Without an INIT among them, quiet cycles keep `DIV` and `PH` (R26, R30). -/
theorem div_ph_of_quiet_run (hin : s.inputs = l ++ rest) (hl : ∀ q ∈ l, q.Quiet ∧ q.requestsInit = false)
    (h : runSteps l.length s = .next t) : t.div = s.div ∧ t.ph = s.ph := by
  refine runSteps_keeps_over (P := fun u => u.div = s.div ∧ u.ph = s.ph) (fun q hq => hq.1.1) (fun u v hq hu hv => ?_)
    hin hl ⟨rfl, rfl⟩ h
  rw [eq_of_quiet hq.1 hv, ← hu.1, ← hu.2]
  simp [hq.2, beforeTick]

/-- One quiet cycle drives a pending assertion, and none is pending after it (R121). -/
theorem lines_of_quiet (hq : (nextInput s).Quiet) (h : step s = .next t) :
    t.dign = (if s.arm then s.dnext else s.dign) ∧ t.arm = false := by
  rw [eq_of_quiet hq h]
  simp [hq.2.2, beforeTick]

/-- With no assertion pending the lines stand over quiet cycles. -/
theorem dign_of_quiet_run (hin : s.inputs = l ++ rest) (hl : ∀ q ∈ l, q.Quiet) (ha : s.arm = false)
    (h : runSteps l.length s = .next t) : t.dign = s.dign := by
  refine (runSteps_keeps_over (P := fun u => u.dign = s.dign ∧ u.arm = false) (fun q hq => hq.1)
    (fun u v hq hu hv => ?_) hin hl ⟨rfl, ha⟩ h).1
  obtain ⟨hdign, harm⟩ := lines_of_quiet hq hv
  exact ⟨by rw [hdign, hu.2, ← hu.1]; rfl, harm⟩

/-- A pending assertion is driven by the first of some quiet cycles and stands over the others. -/
theorem dign_of_armed_quiet_run (hin : s.inputs = l ++ rest) (hl : ∀ q ∈ l, q.Quiet) (hne : l ≠ [])
    (ha : s.arm = true) (h : runSteps l.length s = .next t) : t.dign = s.dnext := by
  obtain ⟨q, l, rfl⟩ := List.exists_cons_of_ne_nil hne
  obtain ⟨hq, hl⟩ := List.forall_mem_cons.1 hl
  obtain ⟨u, hu, hrun⟩ := runSteps_succ_inv h
  obtain ⟨hdign, harm⟩ := lines_of_quiet ((nextInput_of_cons hin).symm ▸ hq) hu
  rw [dign_of_quiet_run (inputs_of_step hin hq.1 hu) hl harm hrun, hdign, if_pos ha]

end Quiet

theorem selected_of_selectLine {s : State} {i : Position} (h : s.dign = selectLine i) (k : Position) :
    selected s k = decide (k = i) := by
  rw [selected, digPort, h, selectLine_getLsbD, decide_not, Bool.not_not]

/-- What a processed display tick leaves, in a cycle with no control action (R124). -/
theorem registers_of_display {s t : State} {i : Position} (hp : processesTick (nextInput s) s = true)
    (hphase : phaseOf s = .display i) (hw : (nextInput s).writes 0x81 = false) (h : step s = .next t) :
    t.seg = s.cell[i] ∧ t.div = onDiv s.bright ∧ t.arm = true ∧ t.dnext = selectLine i := by
  obtain ⟨hi, hc⟩ := no_request_of_not_ctrl hw
  rcases processed_cases hp h with ⟨j, hj, rfl⟩ | ⟨hj, -⟩
  · obtain rfl : i = j := Phase.display.inj (hphase.symm.trans hj)
    simp [hi, hc, beforeTick]
  · exact absurd (hphase.symm.trans hj) nofun

/-- What a processed pause tick leaves, in a cycle with no control action (R126). -/
theorem registers_of_pause {s t : State} (hp : processesTick (nextInput s) s = true) (hphase : phaseOf s = .pause)
    (hw : (nextInput s).writes 0x81 = false) (h : step s = .next t) :
    t.seg = s.seg ∧ t.div = offDiv s.bright ∧ t.ph = true ∧ t.arm = false := by
  obtain ⟨hi, hc⟩ := no_request_of_not_ctrl hw
  rcases processed_cases hp h with ⟨j, hj, -⟩ | ⟨-, rfl⟩
  · exact absurd (hphase.symm.trans hj) nofun
  · simp [hi, hc, beforeTick]

/-- Settles O38: the tick leaves the line of i pending, the first quiet cycle drives it, and quiet cycles keep the rest. -/
theorem displayTickLightsItsDigitFromTheNextEdge : Obligations.DisplayTickLightsItsDigitFromTheNextEdge := by
  unfold Obligations.DisplayTickLightsItsDigitFromTheNextEdge
  intro s i inp quiet rest hin hp hw hphase hquiet
  obtain ⟨t, ht⟩ : ∃ t, step s = .next t := ⟨_, step_eq s⟩
  obtain ⟨u, hu⟩ := exists_runSteps quiet.length t
  have hrest : t.inputs = quiet ++ rest := inputs_of_step hin (processesTick_iff.1 hp).1 ht
  obtain rfl := nextInput_of_cons hin
  obtain ⟨hseg, hdiv, harm, hdnext⟩ := registers_of_display hp hphase hw ht
  refine ⟨t, u, ht, hu, hseg, dign_of_processed hp ht, hdiv, ?seg, fun hne => ?lines, fun hinit => ?div⟩
  case seg => rw [seg_of_quiet_run hrest hquiet hu, hseg]
  case lines =>
    exact selected_of_selectLine ((dign_of_armed_quiet_run hrest hquiet hne harm hu).trans hdnext)
  case div =>
    rw [(div_ph_of_quiet_run hrest (fun q hq => ⟨hquiet q hq, hinit q hq⟩) hu).1, hdiv]

/-- Settles O39: the pause leaves no assertion pending, so quiet cycles keep the lines off, and the rest too. -/
theorem pauseTickDarkensUntilTheNextTick : Obligations.PauseTickDarkensUntilTheNextTick := by
  unfold Obligations.PauseTickDarkensUntilTheNextTick
  intro s inp quiet rest hin hp hw hphase hquiet
  obtain ⟨u, hrun⟩ := exists_runSteps (quiet.length + 1) s
  obtain ⟨t, ht, hu⟩ := runSteps_succ_inv hrun
  have hrest : t.inputs = quiet ++ rest := inputs_of_step hin (processesTick_iff.1 hp).1 ht
  obtain rfl := nextInput_of_cons hin
  obtain ⟨hseg, hdiv, hph, harm⟩ := registers_of_pause hp hphase hw ht
  refine ⟨u, hrun, ?lines, ?seg, fun hinit => ?blank⟩
  case lines => rw [dign_of_quiet_run hrest hquiet harm hu, dign_of_processed hp ht]
  case seg => rw [seg_of_quiet_run hrest hquiet hu, hseg]
  case blank =>
    obtain ⟨hdiv', hph'⟩ := div_ph_of_quiet_run hrest (fun q hq => ⟨hquiet q hq, hinit q hq⟩) hu
    exact ⟨hdiv'.trans hdiv, hph'.trans hph⟩

/-! ### The multiplex cycle: R128 -/

section Schedule

variable {s : State} {n : Nat}

/-- What holds of an idle cycle and of the next cycles of the schedule holds of the next one and of those after it. -/
theorem forall_next_cycles {P : CycleInput → Prop} (hidle : P .idle) (h : ∀ inp ∈ s.inputs.take (n + 1), P inp) :
    P (nextInput s) ∧ ∀ inp ∈ s.inputs.tail.take n, P inp := by
  unfold nextInput
  cases hin : s.inputs with
  | nil => exact ⟨hidle, by simp⟩
  | cons inp rest =>
    rw [hin, List.take_succ_cons] at h
    exact List.forall_mem_cons.1 h

/-- How many of the next `n` cycles of a schedule carry a tick. -/
def ticksWithin (n : Nat) (l : List CycleInput) : Nat := (l.take n).countP (·.tick)

theorem ticksWithin_succ :
    ticksWithin (n + 1) s.inputs = (nextInput s).tick.toNat + ticksWithin n s.inputs.tail := by
  unfold nextInput ticksWithin
  cases s.inputs with
  | nil => simp [CycleInput.idle]
  | cons inp rest => cases ht : inp.tick <;> simp [ht, Nat.add_comm]

/-- One cycle more carries one tick more or none. -/
theorem ticksWithin_succ_cases (n : Nat) (l : List CycleInput) :
    ticksWithin (n + 1) l = ticksWithin n l ∨ ticksWithin (n + 1) l = ticksWithin n l + 1 := by
  have hlast : l[n]?.toList.countP (·.tick) ≤ 1 := List.countP_le_length.trans Option.length_toList_le
  rw [ticksWithin, ticksWithin, List.take_add_one, List.countP_append]
  omega

/-- Spaced ticks (R161): after a tick comes a cycle without one, and the schedule goes on spaced. -/
theorem ticksSpaced_next (h : ticksSpaced (s.inputs.take (n + 2)) = true) :
    ((nextInput s).tick = true → (s.inputs.tail.headD .idle).tick = false) ∧
      ticksSpaced (s.inputs.tail.take (n + 1)) = true := by
  unfold nextInput
  match hin : s.inputs with
  | [] => exact ⟨nofun, rfl⟩
  | [a] => exact ⟨fun _ => rfl, rfl⟩
  | a :: b :: rest =>
    rw [hin] at h
    simpa [ticksSpaced, imp_iff_not_or] using h

end Schedule

theorem performed_succ {s t : State} (n : Nat) (h : step s = .next t) :
    performed (n + 1) s = (if processesTick (nextInput s) s then [phaseOf s] else []) ++ performed n t := by
  rw [performed, h]

theorem assertions_succ {s t : State} (i : Position) (n : Nat) (h : step s = .next t) :
    assertions i (n + 1) s = (if !selected s i && selected t i then 1 else 0) + assertions i n t := by
  rw [assertions, h]

/-- The phases of a multiplex cycle below `MAX_LEVEL`, in their order (R128). -/
def multiplexCycle : List Phase := [.display 0, .display 1, .display 2, .display 3, .pause]

/-- The premise of R128 on a cycle: no reset, no INIT, and no level written but one below 3. -/
def CycleInput.KeepsCycling (inp : CycleInput) : Prop :=
  inp.rst = false ∧ inp.requestsInit = false ∧ (inp.writes 0x80 = true → (levelOf inp.wdata).toNat < 3)

theorem CycleInput.keepsCycling_idle : CycleInput.idle.KeepsCycling := ⟨rfl, rfl, nofun⟩

section Cycling

variable {s t : State}

/-- Below `MAX_LEVEL` the position counter is the index of the next phase in the multiplex cycle (R122, R127). -/
theorem drop_multiplexCycle (hpos : s.pos.toNat ≤ 4) (hb : s.bright.toNat < 3) :
    multiplexCycle.drop s.pos.toNat = phaseOf s :: multiplexCycle.drop (s.pos.toNat + 1) := by
  have hdisplay : ∀ i : Position, multiplexCycle.drop i.val = .display i :: multiplexCycle.drop (i.val + 1) := by decide
  by_cases hlt : s.pos.toNat < 4
  · rw [phaseOf_of_lt hlt]
    exact hdisplay ⟨_, hlt⟩
  · have h4 : s.pos.toNat = 4 := by omega
    rw [phaseOf_pause h4.ge hb.ne, h4]
    rfl

/-- A processed tick moves on to the next phase, and PAUSE to the first (R124, R126). -/
theorem pos_of_processed (hpos : s.pos.toNat ≤ 4) (hb : s.bright.toNat < 3)
    (hp : processesTick (nextInput s) s = true) (hi : (nextInput s).requestsInit = false) (h : step s = .next t) :
    t.pos.toNat = if s.pos.toNat < 4 then s.pos.toNat + 1 else 0 := by
  rcases processed_cases hp h with ⟨i, hphase, rfl⟩ | ⟨hphase, rfl⟩
  · have hlt : s.pos.toNat < 4 := by
      by_contra hge
      rw [phaseOf_pause (Nat.not_lt.1 hge) hb.ne] at hphase
      exact absurd hphase nofun
    obtain rfl : ⟨_, hlt⟩ = i := Phase.display.inj ((phaseOf_of_lt hlt).symm.trans hphase)
    simp only [writePhase_pos, hi, displayStep_pos, hlt, if_true, Bool.false_eq_true, if_false, BitVec.toNat_ofNat]
    omega
  · simp [hi, Nat.not_lt.2 (phaseOf_eq_pause hphase).1]

theorem pos_of_not_processed (hr : (nextInput s).rst = false) (hp : processesTick (nextInput s) s = false)
    (hi : (nextInput s).requestsInit = false) (h : step s = .next t) : t.pos = s.pos := by
  rw [eq_of_not_processed hr hp h]
  simp [hi, beforeTick]

/-- Up to the pause, the ticks perform the phases of the multiplex cycle from the position counter on. -/
theorem performed_of_keepsCycling (n : Nat) (hen : s.en = true) (hb : s.bright.toNat < 3)
    (hl : ∀ inp ∈ s.inputs.take n, inp.KeepsCycling) (hk : s.pos.toNat + ticksWithin n s.inputs ≤ 5) :
    performed n s = (multiplexCycle.drop s.pos.toNat).take (ticksWithin n s.inputs) := by
  induction n generalizing s with
  | zero => simp [performed, ticksWithin]
  | succ n ih =>
    obtain ⟨t, ht⟩ : ∃ t, step s = .next t := ⟨_, step_eq s⟩
    obtain ⟨⟨hr, hi, hw⟩, hl⟩ := forall_next_cycles CycleInput.keepsCycling_idle hl
    have hbt : t.bright.toNat < 3 := bright_of_edge (P := (·.toNat < 3)) hb hw hr ht
    have hent : t.en = true := by rw [en_of_edge hr ht, hen, Bool.true_or]
    have hproc : processesTick (nextInput s) s = (nextInput s).tick := by simp [processesTick, hr, hen]
    have hin : t.inputs = s.inputs.tail := inputs_of_edge hr ht
    have ih := ih hent hbt (hin ▸ hl)
    rw [hin] at ih
    rw [ticksWithin_succ] at hk ⊢
    rw [performed_succ n ht]
    cases htick : (nextInput s).tick with
    | false =>
      rw [pos_of_not_processed hr (hproc.trans htick) hi ht] at ih
      simp only [htick, Bool.toNat_false, Nat.zero_add] at hk ⊢
      rw [hproc, htick, ih hk]
      rfl
    | true =>
      simp only [htick, Bool.toNat_true] at hk ⊢
      have hpos := pos_of_processed (by omega) hb (hproc.trans htick) hi ht
      rw [hproc, htick, drop_multiplexCycle (by omega) hb, Nat.add_comm 1, List.take_succ_cons]
      by_cases hlt : s.pos.toNat < 4
      · rw [if_pos hlt] at hpos
        rw [ih (by omega), hpos]
        rfl
      · have hnone : ticksWithin n s.inputs.tail = 0 := by omega
        rw [if_neg hlt] at hpos
        rw [ih (by omega), hnone]
        rfl

end Cycling

/-- At level 3 no tick pauses (R125). -/
theorem pause_not_mem_performed {s : State} (n : Nat) (hb : s.bright.toNat = 3)
    (hl : ∀ inp ∈ s.inputs.take n, inp.rst = false ∧ (inp.writes 0x80 = true → (levelOf inp.wdata).toNat = 3)) :
    Phase.pause ∉ performed n s := by
  induction n generalizing s with
  | zero => exact List.not_mem_nil
  | succ n ih =>
    obtain ⟨t, ht⟩ : ∃ t, step s = .next t := ⟨_, step_eq s⟩
    obtain ⟨⟨hr, hw⟩, hl⟩ := forall_next_cycles ⟨rfl, nofun⟩ hl
    have hbt : t.bright.toNat = 3 := bright_of_edge (P := (·.toNat = 3)) hb hw hr ht
    have hphase : Phase.pause ≠ phaseOf s := fun h => (phaseOf_eq_pause h.symm).2 hb
    rw [performed_succ n ht, List.mem_append, not_or]
    exact ⟨by split <;> simp [hphase], ih hbt (inputs_of_edge hr ht ▸ hl)⟩

/-- Settles O19: from `POS` = 0 five ticks perform the phases of the cycle from its start, and level 3 has no pause. -/
theorem multiplexCycleIsFair : Obligations.MultiplexCycleIsFair := by
  unfold Obligations.MultiplexCycleIsFair
  refine ⟨fun n s hen hpos hb hl hk => ?_, fun n s hb hl => pause_not_mem_performed n hb hl⟩
  have hfive : ticksWithin n s.inputs = 5 := hk
  have hstart : s.pos.toNat = 0 := congrArg BitVec.toNat hpos
  rw [performed_of_keepsCycling n hen hb hl (by omega), hfive, hstart]
  rfl

/-! ### Each displayed digit is asserted once: R128 with R161 -/

/-- An assertion of the line of position i is pending (R33). -/
def pendingAt (i : Position) (s : State) : Bool := s.arm && !s.dnext.getLsbD i.val

section Spaced

variable {s t : State}

theorem not_selected_of_lines_off (h : s.dign = 0b1111) (i : Position) : selected s i = false := by
  have hline : (0b1111 : DigLines).getLsbD i.val = true := by revert i; decide
  rw [selected, digPort, h, hline, Bool.not_true]

/-- Lines are off while an assertion is pending (R34 item 5), and no tick comes that would cancel it (R131). -/
def Undisturbed (s : State) : Prop := s.arm = true → s.dign = 0b1111 ∧ (nextInput s).tick = false

/-- An edge newly asserts the line of a position exactly when its assertion is pending (R121). -/
theorem newly_selected_iff (hq : Undisturbed s) (hr : (nextInput s).rst = false)
    (hc : (nextInput s).requestsClear = false) (h : step s = .next t) (i : Position) :
    (!selected s i && selected t i) = pendingAt i s := by
  cases ha : s.arm with
  | true =>
    obtain ⟨hoff, hnt⟩ := hq ha
    have hdign := (lines_of_quiet ⟨hr, hnt, hc⟩ h).1
    rw [if_pos ha] at hdign
    rw [not_selected_of_lines_off hoff, selected, digPort, hdign, pendingAt, ha]
    rfl
  | false =>
    rw [pendingAt, ha]
    cases hp : processesTick (nextInput s) s with
    | true => simp [not_selected_of_lines_off (dign_of_processed hp h)]
    | false =>
      rw [eq_of_not_processed hr hp h]
      simp [selected, digPort, hc, ha, beforeTick]

/-- An edge leaves an assertion pending exactly when its tick is a display tick, of the position displayed (R124). -/
theorem pendingAt_of_edge (hr : (nextInput s).rst = false) (hc : (nextInput s).requestsClear = false)
    (h : step s = .next t) (i : Position) :
    pendingAt i t = (processesTick (nextInput s) s && decide (phaseOf s = .display i)) := by
  rcases step_cases hr h with ⟨hp, j, hj, rfl⟩ | ⟨hp, hj, rfl⟩ | ⟨hp, rfl⟩
  · simp only [pendingAt, writePhase_arm, writePhase_dnext, displayStep_arm, displayStep_dnext, selectLine_getLsbD]
    simp [hc, hp, hj, eq_comm]
  · simp [pendingAt, hp, hj]
  · simp [pendingAt, hp, beforeTick]

/-- Spaced ticks keep every assertion undisturbed. -/
theorem undisturbed_of_edge {n : Nat} (hs : ticksSpaced (s.inputs.take (n + 2)) = true)
    (hr : (nextInput s).rst = false) (h : step s = .next t) : Undisturbed t := by
  intro ha
  have hp : processesTick (nextInput s) s = true := by
    by_contra hno
    rw [eq_of_not_processed hr (Bool.eq_false_iff.2 hno) h] at ha
    simp [beforeTick] at ha
  refine ⟨dign_of_processed hp h, ?_⟩
  rw [nextInput, inputs_of_edge hr h]
  exact (ticksSpaced_next hs).1 (processesTick_iff.1 hp).2.1

/-- Along spaced ticks, with no CLEAR, a line is asserted once for the assertion pending at the start and once for every
display tick of its position before the last edge. -/
theorem assertions_eq_count (i : Position) (n : Nat) (hq : Undisturbed s)
    (hl : ∀ inp ∈ s.inputs.take (n + 1), inp.rst = false ∧ inp.requestsClear = false)
    (hs : ticksSpaced (s.inputs.take (n + 1)) = true) :
    assertions i (n + 1) s = (pendingAt i s).toNat + (performed n s).count (.display i) := by
  induction n generalizing s with
  | zero =>
    obtain ⟨t, ht⟩ : ∃ t, step s = .next t := ⟨_, step_eq s⟩
    obtain ⟨⟨hr, hc⟩, -⟩ := forall_next_cycles ⟨rfl, rfl⟩ hl
    rw [assertions_succ i 0 ht, newly_selected_iff hq hr hc ht i]
    cases pendingAt i s <;> rfl
  | succ n ih =>
    obtain ⟨t, ht⟩ : ∃ t, step s = .next t := ⟨_, step_eq s⟩
    obtain ⟨⟨hr, hc⟩, hl⟩ := forall_next_cycles ⟨rfl, rfl⟩ hl
    have hin : t.inputs = s.inputs.tail := inputs_of_edge hr ht
    have hrest := ih (undisturbed_of_edge hs hr ht) (hin ▸ hl) (hin ▸ (ticksSpaced_next hs).2)
    rw [assertions_succ i (n + 1) ht, newly_selected_iff hq hr hc ht i, hrest, pendingAt_of_edge hr hc ht i,
      performed_succ n ht, List.count_append]
    congr 1
    · cases pendingAt i s <;> rfl
    · congr 1
      cases processesTick (nextInput s) s <;> simp [List.count_singleton, Bool.toNat, Bool.cond_decide]

end Spaced

/-- Four or five ticks of a multiplex cycle display each position once. -/
theorem count_display_take_multiplexCycle (i : Position) {k : Nat} (hk : k = 4 ∨ k = 5) :
    (multiplexCycle.take k).count (.display i) = 1 := by
  rcases hk with rfl | rfl <;> revert i <;> decide

/-- Settles O20: each assertion is of a display tick before the last edge, and at most the pause is at the last edge. -/
theorem spacedMultiplexCycleAssertsEachPositionOnce : Obligations.SpacedMultiplexCycleAssertsEachPositionOnce := by
  unfold Obligations.SpacedMultiplexCycleAssertsEachPositionOnce
  intro n s i hen hpos harm hb hl hs hk
  have hfive : ticksWithin n s.inputs = 5 := hk
  have hstart : s.pos.toNat = 0 := congrArg BitVec.toNat hpos
  obtain ⟨m, rfl⟩ : ∃ m, n = m + 1 := Nat.exists_eq_succ_of_ne_zero (by rintro rfl; simp [ticksWithin] at hfive)
  have hkeep : ∀ inp ∈ s.inputs.take m, inp.KeepsCycling := fun inp hinp =>
    let ⟨hr, hi, _, hw⟩ := hl inp (List.take_subset_take_left _ m.le_succ hinp)
    ⟨hr, hi, hw⟩
  have hmost : ticksWithin m s.inputs = 4 ∨ ticksWithin m s.inputs = 5 := by
    have hlast := ticksWithin_succ_cases m s.inputs
    omega
  have hnone : pendingAt i s = false := by rw [pendingAt, harm, Bool.false_and]
  rw [assertions_eq_count i m (fun h => absurd h (by simp [harm]))
    (fun inp hinp => ⟨(hl inp hinp).1, (hl inp hinp).2.2.1⟩) hs, hnone,
    performed_of_keepsCycling m hen hb hkeep (by omega), hstart, List.drop_zero,
    count_display_take_multiplexCycle i hmost]
  rfl

end Sys2Proof.Machine

/-! ## The environment's side: 60_exceptions.md

Nothing stops and idle cycles change nothing (R150, R165); then the timer's contract along a run (R160), and what the
phases of a multiplex cycle light (R182). -/

namespace Sys2Proof.Machine

/-! ### Nothing stops, and nothing happens in idle cycles -/

/-- Settles O25: each meaning is an equation with a next state, and a step is the phases of its cycle. -/
theorem nothingEverStops : Obligations.NothingEverStops := by
  unfold Obligations.NothingEverStops
  refine ⟨fun i s => ?_, fun s => ⟨_, step_eq s⟩⟩
  cases i with
  | rdcell p => exact ⟨_, exec_rdcell p s⟩
  | wrcell p d => exact ⟨_, exec_wrcell p d s⟩
  | rdbright => exact ⟨_, exec_rdbright s⟩
  | wrbright d => exact ⟨_, exec_wrbright d s⟩
  | rdctrl => exact ⟨_, exec_rdctrl s⟩
  | wrctrl d => exact ⟨_, exec_wrctrl d s⟩
  | rdstatus => exact ⟨_, exec_rdstatus s⟩
  | wrstatus d => exact ⟨_, exec_wrstatus d s⟩
  | rdnone a => exact ⟨_, exec_rdnone a s⟩
  | wrnone a d => exact ⟨_, exec_wrnone a d s⟩
  | tick => exact ⟨_, exec_tick s⟩

theorem armStage_of_not_arm {s : State} (h : s.arm = false) : armStage s = s := by
  rw [armStage, if_neg (by simp [h])]

/-- A pending assertion takes place once. -/
@[simp] theorem armStage_armStage (s : State) : armStage (armStage s) = armStage s :=
  armStage_of_not_arm (armStage_arm s)

@[simp] theorem State.withPort_withPort (s : State) (d e : Byte) (l m : List CycleInput) :
    (s.withPort d l).withPort e m = s.withPort e m := rfl

/-- An idle cycle, by what it leaves besides the arm stage: the port at 0x00 and the rest of the schedule. -/
theorem step_idle_withPort {s : State} {rest : List CycleInput} (h : s.inputs = .idle :: rest) :
    step s = .next ((armStage s).withPort 0x00 rest) := by
  rw [step_idle h, beginCycle_of_cons h]
  exact congrArg _ (armStage_withPort s 0x00 rest)

theorem runSteps_of_idle (n : Nat) {s : State} (h : s.inputs = List.replicate (n + 1) .idle) :
    runSteps (n + 1) s = .next ((armStage s).withPort 0x00 []) := by
  induction n generalizing s with
  | zero => rw [runSteps, step_idle_withPort h, andThen_next]; rfl
  | succ n ih =>
    rw [runSteps, step_idle_withPort h, andThen_next, ih rfl, armStage_withPort, armStage_armStage,
      State.withPort_withPort]

/-- Settles O26: every idle cycle is the arm stage, and the arm stage repeated changes nothing more. -/
theorem idleCyclesKeepTheState : Obligations.IdleCyclesKeepTheState := by
  unfold Obligations.IdleCyclesKeepTheState
  exact fun n _ h => runSteps_of_idle n h

/-! ### The timer's contract along a run: R160 -/

theorem timerTrace_succ {s t : State} (n : Nat) (h : step s = .next t) :
    timerTrace (n + 1) s = ((nextInput s).tick, s.div) :: timerTrace n t := by
  rw [timerTrace, h]; rfl

/-- The trace holds at k the tick and the class of the state after k edges. -/
theorem timerTrace_getElem? {n k : Nat} {s t : State} (hk : k < n) (h : runSteps k s = .next t) :
    (timerTrace n s)[k]? = some ((nextInput t).tick, t.div) := by
  obtain ⟨n, rfl⟩ : ∃ m, n = m + 1 := Nat.exists_eq_add_one_of_ne_zero (Nat.ne_zero_of_lt hk)
  induction k generalizing s n with
  | zero =>
    obtain rfl := Host.Outcome.next.inj h
    rw [timerTrace_succ n (step_eq s), List.getElem?_cons_zero]
  | succ k ih =>
    obtain ⟨u, hu, hrun⟩ := runSteps_succ_inv h
    obtain ⟨m, rfl⟩ : ∃ m, n = m + 1 := Nat.exists_eq_add_one_of_ne_zero (by omega)
    rw [timerTrace_succ _ hu, List.getElem?_cons_succ]
    exact ih hrun m (by omega)

/-- Settles O42: `EN` = 0 means class 0 (R34 item 3), and under class 0 the timer is stopped. -/
theorem timerInContractDropsNoTick : Obligations.TimerInContractDropsNoTick := by
  unfold Obligations.TimerInContractDropsNoTick
  intro period n k s t hinv hspacing hk hrun htick
  by_contra hen
  have hinvt : SeqInv t := runSteps_keeps everyStepKeepsInvariant hinv hrun
  obtain ⟨hdiv, -⟩ := hinvt.disabled (Bool.eq_false_iff.2 hen)
  have hentry := timerTrace_getElem? hk hrun
  rw [hdiv] at hentry
  have hnone := hspacing.stopped k _ hentry
  simp [htick] at hnone

theorem div_of_not_processed {s t : State} (hr : (nextInput s).rst = false)
    (hp : processesTick (nextInput s) s = false) (hi : (nextInput s).requestsInit = false) (h : step s = .next t) :
    t.div = s.div := by
  rw [eq_of_not_processed hr hp h]
  simp [hi, beforeTick]

/-- Without a reset and an INIT, cycles in which an enabled block performs nothing carry no tick and keep its class. -/
theorem timerTrace_of_performed_nil (n : Nat) {s : State} (hen : s.en = true)
    (hl : ∀ inp ∈ s.inputs.take n, inp.rst = false ∧ inp.requestsInit = false) (hnil : performed n s = []) :
    timerTrace n s = List.replicate n (false, s.div) := by
  induction n generalizing s with
  | zero => rfl
  | succ n ih =>
    obtain ⟨t, ht⟩ : ∃ t, step s = .next t := ⟨_, step_eq s⟩
    obtain ⟨⟨hr, hi⟩, hl⟩ := forall_next_cycles ⟨rfl, rfl⟩ hl
    rw [performed_succ n ht, List.append_eq_nil_iff] at hnil
    obtain ⟨hnow, hlater⟩ := hnil
    have hp : processesTick (nextInput s) s = false := by simpa using hnow
    have htick : (nextInput s).tick = false := by simpa [processesTick, hr, hen] using hp
    have hent : t.en = true := by rw [en_of_edge hr ht, hen, Bool.true_or]
    rw [timerTrace_succ n ht, ih hent (inputs_of_edge hr ht ▸ hl) hlater, htick, div_of_not_processed hr hp hi ht,
      List.replicate_succ]

/-- An enabled block selects a class other than 0 (R34 item 3). -/
theorem SeqInv.div_ne_zero {s : State} (h : SeqInv s) (hen : s.en = true) : s.div ≠ 0 := by
  rcases h.enabled hen with hd | hd | hd | hd <;> rw [hd] <;> decide

/-- Settles O49: were nothing performed, the class would stand without a tick for its longest wait, which the contract
excludes. -/
theorem timerInContractKeepsTheSequenceRunning : Obligations.TimerInContractKeepsTheSequenceRunning := by
  unfold Obligations.TimerInContractKeepsTheSequenceRunning
  intro period longest s hinv hen hcontract hl hnil
  have hproduces := hcontract.produces 0 s.div (hinv.div_ne_zero hen)
  rw [timerTrace_of_performed_nil _ hen hl hnil, Nat.zero_add] at hproduces
  obtain ⟨m, -, hm, htick⟩ := hproduces fun m _ hm => ⟨false, List.getElem?_replicate_of_lt hm⟩
  rw [List.getElem?_replicate_of_lt hm] at htick
  simp at htick

/-! ### The lines after each edge of a phase: R182 -/

/-- The digit-select lines after each of the next `n` edges. -/
def linesTrace : Nat → State → List DigLines
  | 0, _ => []
  | n + 1, s =>
    match step s with
    | .next t => t.dign :: linesTrace n t
    | .fault _ => []
    | .refused _ => []

section Lines

variable {s t : State} {m n : Nat}

theorem linesTrace_succ (n : Nat) (h : step s = .next t) : linesTrace (n + 1) s = t.dign :: linesTrace n t := by
  rw [linesTrace, h]

/-- The cycles with some line asserted are counted along the lines after each edge. -/
theorem anyLitCycles_eq_countP (n : Nat) (s : State) : anyLitCycles n s = (linesTrace n s).countP (· ≠ 0b1111) := by
  induction n generalizing s with
  | zero => rfl
  | succ n ih =>
    obtain ⟨t, ht⟩ : ∃ t, step s = .next t := ⟨_, step_eq s⟩
    rw [anyLitCycles, linesTrace_succ n ht, List.countP_cons, ht, ← ih, Nat.add_comm]
    by_cases h : t.dign = 0b1111#4 <;> simp [digPort, h]

theorem runSteps_add (h : runSteps m s = .next t) : runSteps (m + n) s = runSteps n t := by
  induction m generalizing s with
  | zero => rw [Host.Outcome.next.inj h, Nat.zero_add]
  | succ m ih =>
    obtain ⟨u, hu, hrun⟩ := runSteps_succ_inv h
    rw [Nat.succ_add, runSteps, hu, andThen_next, ih hrun]

theorem linesTrace_add (h : runSteps m s = .next t) : linesTrace (m + n) s = linesTrace m s ++ linesTrace n t := by
  induction m generalizing s with
  | zero => rw [Host.Outcome.next.inj h, Nat.zero_add]; rfl
  | succ m ih =>
    obtain ⟨u, hu, hrun⟩ := runSteps_succ_inv h
    rw [Nat.succ_add, linesTrace_succ _ hu, linesTrace_succ _ hu, ih hrun, List.cons_append]

theorem anyLitCycles_add (h : runSteps m s = .next t) :
    anyLitCycles (m + n) s = anyLitCycles m s + anyLitCycles n t := by
  simp only [anyLitCycles_eq_countP, linesTrace_add h, List.countP_append]

end Lines

/-- A cycle of a phase after its first: no tick, and the sequencer is left alone (R182). -/
def CycleInput.Resting (q : CycleInput) : Prop := q.tick = false ∧ q.leavesSequencer = true

theorem CycleInput.Resting.rst_eq_false {q : CycleInput} (h : q.Resting) : q.rst = false :=
  (leavesSequencer_iff.1 h.2).1

theorem CycleInput.Resting.quiet {q : CycleInput} (h : q.Resting) : q.Quiet :=
  ⟨h.rst_eq_false, h.1, (no_request_of_not_ctrl (leavesSequencer_iff.1 h.2).2.1).2⟩

theorem CycleInput.Resting.requestsInit_eq_false {q : CycleInput} (h : q.Resting) : q.requestsInit = false :=
  (no_request_of_not_ctrl (leavesSequencer_iff.1 h.2).2.1).1

/-- A phase is a tick and resting cycles after it, `p` cycles in all (R182). -/
theorem isPhase_iff {p : Nat} {l : List CycleInput} :
    isPhase p l = true ↔ ∃ a mid, l = a :: mid ∧ mid.length + 1 = p ∧ a.tick = true ∧ a.leavesSequencer = true ∧
      ∀ q ∈ mid, q.Resting := by
  cases l with
  | nil => simp [isPhase]
  | cons a mid => simp [isPhase, CycleInput.Resting, and_assoc]

theorem length_of_isPhase {p : Nat} {l : List CycleInput} (h : isPhase p l = true) : l.length = p := by
  obtain ⟨a, mid, rfl, hlen, -⟩ := isPhase_iff.1 h
  exact hlen

section Phase

variable {s t : State} {l rest : List CycleInput}

/-- Over quiet cycles the lines are those of the pending assertion, or stand where none is pending. -/
theorem linesTrace_of_quiet (hin : s.inputs = l ++ rest) (hl : ∀ q ∈ l, q.Quiet) :
    linesTrace l.length s = List.replicate l.length (if s.arm then s.dnext else s.dign) := by
  induction l generalizing s with
  | nil => rfl
  | cons q l ih =>
    obtain ⟨hq, hl⟩ := List.forall_mem_cons.1 hl
    obtain ⟨t, ht⟩ : ∃ t, step s = .next t := ⟨_, step_eq s⟩
    obtain ⟨hdign, harm⟩ := lines_of_quiet ((nextInput_of_cons hin).symm ▸ hq) ht
    rw [List.length_cons, linesTrace_succ _ ht, ih (inputs_of_step hin hq.1 ht) hl, harm, hdign, List.replicate_succ]
    rfl

theorem inputs_of_runSteps (hin : s.inputs = l ++ rest) (hl : ∀ q ∈ l, q.rst = false)
    (h : runSteps l.length s = .next t) : t.inputs = rest := by
  induction l generalizing s with
  | nil => rw [← Host.Outcome.next.inj h, hin, List.nil_append]
  | cons q l ih =>
    obtain ⟨hq, hl⟩ := List.forall_mem_cons.1 hl
    obtain ⟨u, hu, hrun⟩ := runSteps_succ_inv h
    exact ih (inputs_of_step hin hq hu) hl hrun

/-- Resting cycles keep `EN` and `POS` (R25, R27). -/
theorem en_pos_of_resting_run (hin : s.inputs = l ++ rest) (hl : ∀ q ∈ l, q.Resting)
    (h : runSteps l.length s = .next t) : t.en = s.en ∧ t.pos = s.pos := by
  refine runSteps_keeps_over (P := fun u => u.en = s.en ∧ u.pos = s.pos) (fun q hq => hq.rst_eq_false)
    (fun u v hq hu hv => ?_) hin hl ⟨rfl, rfl⟩ h
  rw [eq_of_quiet hq.quiet hv, ← hu.1, ← hu.2]
  simp [hq.requestsInit_eq_false, beforeTick]

/-- The block is enabled at level `b`, its position counter is `k`, and the cycles `l` are scheduled. -/
structure ReadyAt (b : Level) (k : Nat) (l : List CycleInput) (s : State) : Prop where
  en : s.en = true
  bright : s.bright = b
  position : s.pos.toNat = k
  inputs : s.inputs = l

/-- A processed display tick of position i moves on to i + 1 (R124). -/
theorem pos_of_display {i : Position} (hp : processesTick (nextInput s) s = true) (hphase : phaseOf s = .display i)
    (hi : (nextInput s).requestsInit = false) (h : step s = .next t) : t.pos.toNat = i.val + 1 := by
  rcases processed_cases hp h with ⟨j, hj, rfl⟩ | ⟨hj, -⟩
  · obtain rfl : i = j := Phase.display.inj (hphase.symm.trans hj)
    simp only [writePhase_pos, hi, Bool.false_eq_true, if_false, displayStep_pos, BitVec.toNat_ofNat]
    omega
  · exact absurd (hphase.symm.trans hj) nofun

/-- A processed pause tick moves on to position 0 (R126). -/
theorem pos_of_pause (hp : processesTick (nextInput s) s = true) (hphase : phaseOf s = .pause)
    (hi : (nextInput s).requestsInit = false) (h : step s = .next t) : t.pos.toNat = 0 := by
  rcases processed_cases hp h with ⟨j, hj, -⟩ | ⟨-, rfl⟩
  · exact absurd (hphase.symm.trans hj) nofun
  · simp [hi]

variable {b : Level} {k p : Nat}

/-- A phase is one processed tick, which turns the lines off, and resting cycles, which drive what it left pending. -/
theorem exists_run_of_phase (hs : ReadyAt b k (l ++ rest) s) (hl : isPhase p l = true) :
    processesTick (nextInput s) s = true ∧ (nextInput s).writes 0x81 = false ∧
    ∃ t u, step s = .next t ∧ runSteps l.length s = .next u ∧ ReadyAt b t.pos.toNat rest u ∧
      linesTrace l.length s = 0b1111 :: List.replicate (p - 1) (if t.arm then t.dnext else 0b1111) := by
  obtain ⟨a, mid, rfl, rfl, htick, ha, hmid⟩ := isPhase_iff.1 hl
  obtain ⟨har, hctrl, -⟩ := leavesSequencer_iff.1 ha
  have hin : s.inputs = a :: (mid ++ rest) := hs.inputs
  obtain ⟨t, ht⟩ : ∃ t, step s = .next t := ⟨_, step_eq s⟩
  obtain ⟨u, hu⟩ := exists_runSteps mid.length t
  have hrun : runSteps (mid.length + 1) s = .next u := by rw [runSteps, ht, andThen_next, hu]
  have hint : t.inputs = mid ++ rest := inputs_of_step hin har ht
  have hbright : u.bright = s.bright :=
    bright_of_runSteps hs.inputs (List.forall_mem_cons.2 ⟨ha, fun q hq => (hmid q hq).2⟩) hrun
  obtain ⟨hen, hpos⟩ := en_pos_of_resting_run hint hmid hu
  obtain rfl := nextInput_of_cons hin
  have hp : processesTick (nextInput s) s = true := processesTick_iff.2 ⟨har, htick, hs.en⟩
  refine ⟨hp, hctrl, t, u, ht, hrun, ⟨?en, hbright.trans hs.bright, congrArg BitVec.toNat hpos, ?inputs⟩, ?lines⟩
  case en => rw [hen, en_of_edge har ht, hs.en, Bool.true_or]
  case inputs => exact inputs_of_runSteps hint (fun q hq => (hmid q hq).rst_eq_false) hu
  case lines =>
    have hoff : t.dign = 0b1111 := dign_of_processed hp ht
    rw [List.length_cons, linesTrace_succ _ ht, linesTrace_of_quiet hint (fun q hq => (hmid q hq).quiet), hoff,
      Nat.add_sub_cancel]

/-- A display phase asserts the line of its position after every edge but its first, and ends at the next position. -/
theorem exists_run_of_displayPhase {i : Position} (hs : ReadyAt b k (l ++ rest) s) (hl : isPhase p l = true)
    (hphase : phaseOf s = .display i) :
    ∃ u, runSteps l.length s = .next u ∧ ReadyAt b (i.val + 1) rest u ∧
      linesTrace l.length s = 0b1111 :: List.replicate (p - 1) (selectLine i) := by
  obtain ⟨hp, hctrl, t, u, ht, hrun, hu, hlines⟩ := exists_run_of_phase hs hl
  obtain ⟨-, -, harm, hdnext⟩ := registers_of_display hp hphase hctrl ht
  rw [pos_of_display hp hphase (no_request_of_not_ctrl hctrl).1 ht] at hu
  exact ⟨u, hrun, hu, by rw [hlines, if_pos harm, hdnext]⟩

/-- A pause phase asserts no line, and ends at position 0. -/
theorem exists_run_of_pausePhase (hs : ReadyAt b k (l ++ rest) s) (hl : isPhase p l = true)
    (hphase : phaseOf s = .pause) :
    ∃ u, runSteps l.length s = .next u ∧ ReadyAt b 0 rest u ∧
      linesTrace l.length s = 0b1111 :: List.replicate (p - 1) 0b1111 := by
  obtain ⟨hp, hctrl, t, u, ht, hrun, hu, hlines⟩ := exists_run_of_phase hs hl
  obtain ⟨-, -, -, harm⟩ := registers_of_pause hp hphase hctrl ht
  rw [pos_of_pause hp hphase (no_request_of_not_ctrl hctrl).1 ht] at hu
  exact ⟨u, hrun, hu, by rw [hlines, harm]; rfl⟩

end Phase

/-! ### A multiplex cycle below level 3: R182 -/

theorem selectLine_ne_off (i : Position) : selectLine i ≠ 0b1111 := by revert i; decide

/-- Of the edges of a phase whose lines are `v` after the first, all but the first count as lit exactly when `v` asserts
a line. -/
theorem countP_lit_phase (n : Nat) (v : DigLines) :
    (0b1111 :: List.replicate n v).countP (· ≠ 0b1111) = if v = 0b1111 then 0 else n := by
  rw [List.countP_cons, List.countP_replicate]
  by_cases h : v = 0b1111 <;> simp [h]

section MultiplexCycle

variable {s : State} {b : Level} {rest : List CycleInput}

/-- Display phases up to position 3, one after the other, light their digits for all cycles but one each. -/
theorem anyLitCycles_of_displayPhases {ds : List (List CycleInput)} {k p : Nat}
    (hs : ReadyAt b k (ds.flatten ++ rest) s) (hk : k + ds.length ≤ 4) (hds : ∀ d ∈ ds, isPhase p d = true) :
    ∃ u, runSteps ds.flatten.length s = .next u ∧ ReadyAt b (k + ds.length) rest u ∧
      anyLitCycles ds.flatten.length s = ds.length * (p - 1) := by
  induction ds generalizing k s with
  | nil => exact ⟨s, rfl, hs, by rw [List.length_nil, Nat.zero_mul]; rfl⟩
  | cons d ds ih =>
    obtain ⟨hd, hds⟩ := List.forall_mem_cons.1 hds
    rw [List.length_cons] at hk
    rw [List.flatten_cons, List.append_assoc] at hs
    obtain rfl := hs.position
    obtain ⟨t, ht, htready, hlines⟩ := exists_run_of_displayPhase hs hd (phaseOf_of_lt (by omega))
    obtain ⟨u, hu, huready, hlit⟩ := ih (k := s.pos.toNat + 1) htready (by omega) hds
    have hfirst : anyLitCycles d.length s = p - 1 := by
      rw [anyLitCycles_eq_countP, hlines, countP_lit_phase, if_neg (selectLine_ne_off _)]
    refine ⟨u, ?run, ?ready, ?lit⟩
    case run => rw [List.flatten_cons, List.length_append, runSteps_add ht, hu]
    case ready => rwa [List.length_cons, ← Nat.add_assoc, Nat.add_right_comm]
    case lit =>
      rw [List.flatten_cons, List.length_append, anyLitCycles_add ht, hfirst, hlit, List.length_cons, Nat.succ_mul,
        Nat.add_comm]

/-- Four display phases of `pOn` cycles and a pause of `pOff`: the pause lights nothing. -/
theorem anyLitCycles_of_multiplexCycle {pOn pOff : Nat} {d0 d1 d2 d3 z : List CycleInput} (hen : s.en = true)
    (hpos : s.pos = 0) (hb : s.bright.toNat < 3) (hds : ∀ d ∈ [d0, d1, d2, d3], isPhase pOn d = true)
    (hz : isPhase pOff z = true) (hin : s.inputs = d0 ++ d1 ++ d2 ++ d3 ++ z ++ rest) :
    anyLitCycles (d0 ++ d1 ++ d2 ++ d3 ++ z).length s = 4 * (pOn - 1) := by
  have hflat : d0 ++ d1 ++ d2 ++ d3 = [d0, d1, d2, d3].flatten := by simp
  rw [hflat] at hin ⊢
  have hs : ReadyAt s.bright 0 ([d0, d1, d2, d3].flatten ++ (z ++ rest)) s :=
    ⟨hen, rfl, congrArg BitVec.toNat hpos, by rw [hin, List.append_assoc]⟩
  obtain ⟨t, ht, htready, hlit⟩ := anyLitCycles_of_displayPhases hs le_rfl hds
  obtain ⟨-, -, -, hdark⟩ := exists_run_of_pausePhase htready hz
    (phaseOf_pause htready.position.ge (htready.bright ▸ hb.ne))
  rw [List.length_append, anyLitCycles_add ht, hlit, anyLitCycles_eq_countP, hdark, countP_lit_phase]
  rfl

theorem length_of_multiplexCycle {pOn pOff : Nat} {d0 d1 d2 d3 z : List CycleInput}
    (hds : ∀ d ∈ [d0, d1, d2, d3], isPhase pOn d = true) (hz : isPhase pOff z = true) :
    (d0 ++ d1 ++ d2 ++ d3 ++ z).length = 4 * pOn + pOff := by
  have hd : ∀ d ∈ [d0, d1, d2, d3], d.length = pOn := fun d hd => length_of_isPhase (hds d hd)
  simp only [List.forall_mem_cons] at hd
  obtain ⟨h0, h1, h2, h3, -⟩ := hd
  simp only [List.length_append, h0, h1, h2, h3, length_of_isPhase hz]
  omega

end MultiplexCycle

/-- Below level 3 every level displays under one class (R29). -/
theorem onDiv_of_lt {b : Level} (h : b.toNat < 3) : onDiv b = 2 := by rw [onDiv_eq, if_neg h.ne]

/-- Below level 3 the lower of two levels pauses under the higher of the classes 6, 5 and 4 (R29). -/
theorem offDiv_of_lt : ∀ {b c : Level}, b.toNat < c.toNat → c.toNat < 3 →
    (offDiv b = 6 ∧ offDiv c = 5) ∨ (offDiv b = 6 ∧ offDiv c = 4) ∨ (offDiv b = 5 ∧ offDiv c = 4) := by decide

/-- A lower level pauses longer (R160). -/
theorem PeriodsOrdered.offDiv_lt {period : DivClass → Nat} (h : PeriodsOrdered period) {b c : Level}
    (hbc : b.toNat < c.toNat) (hc : c.toNat < 3) : period (offDiv c) < period (offDiv b) := by
  rcases offDiv_of_lt hbc hc with ⟨hb, hc⟩ | ⟨hb, hc⟩ | ⟨hb, hc⟩ <;> rw [hb, hc]
  · exact h.six
  · exact h.five.trans h.six
  · exact h.five

/-- Settles O50: the display phases of both cycles are of one class, and the pauses are ordered by the level. -/
theorem lowerLevelIsDimmer : Obligations.LowerLevelIsDimmer := by
  unfold Obligations.LowerLevelIsDimmer
  intro period s s' d0 d1 d2 d3 z rest d0' d1' d2' d3' z' rest' hperiod hlt hlt' hen hpos hen' hpos' hds hz hin hds'
    hz' hin'
  have hb : s.bright.toNat < 3 := hlt.trans hlt'
  rw [onDiv_of_lt hb] at hds
  rw [onDiv_of_lt hlt'] at hds'
  refine ⟨?lit, ?longer⟩
  case lit =>
    rw [anyLitCycles_of_multiplexCycle hen hpos hb hds hz hin,
      anyLitCycles_of_multiplexCycle hen' hpos' hlt' hds' hz' hin']
  case longer =>
    rw [length_of_multiplexCycle hds hz, length_of_multiplexCycle hds' hz']
    exact Nat.add_lt_add_left (hperiod.offDiv_lt hlt hlt') _

end Sys2Proof.Machine

/-! ## Reset and hazards: 70_reset_and_hazards.md

What a reset leaves and where runs begin (R170 to R172), the dark display before the first INIT (R172, R173), and how
long the phases of a multiplex cycle last and light their digits (R182). -/

namespace Sys2Proof.Machine

/-! ### Reset -/

/-- Settles O24, register by register and port by port. -/
theorem resetStateHoldsTheSpecValues : Obligations.ResetStateHoldsTheSpecValues := by
  unfold Obligations.ResetStateHoldsTheSpecValues
  exact ⟨fun p => Vector.getElem_replicate p.isLt, rfl, rfl, rfl, rfl, rfl, rfl, rfl, rfl, rfl, rfl, rfl, rfl⟩

/-- A step with `rst` = 1 leaves the reset values, with what the cycle's read drove on the port and the rest of the
schedule (R170, R90; log entries 4 and 18). -/
theorem step_of_rst {s : State} (hr : (nextInput s).rst = true) :
    step s = .next (State.reset.withPort (if (nextInput s).isRead then busRead s (nextInput s).addr else 0x00)
      s.inputs.tail) := by
  have hport : resetCycle (readPhase (nextInput s) (beginCycle s)) = State.reset.withPort
      (readPhase (nextInput s) (beginCycle s)).rdata (readPhase (nextInput s) (beginCycle s)).inputs := rfl
  rw [step_eq, cycleResult, if_pos hr, hport, readPhase_rdata, readPhase_inputs, busRead_beginCycle, beginCycle_rdata,
    beginCycle_inputs]

/-- Settles O23: besides the schedule a reset cycle leaves only the port open, and only a read drives it. -/
theorem resetCycleLeavesResetValues : Obligations.ResetCycleLeavesResetValues := by
  unfold Obligations.ResetCycleLeavesResetValues
  intro s inp rest hin hr
  obtain rfl := nextInput_of_cons hin
  refine ⟨_, (step_of_rst hr).trans (by rw [hin, List.tail_cons]; rfl), fun hno => if_neg ?noread, ?either⟩
  case noread => exact Bool.eq_false_iff.1 hno
  case either =>
    split
    · exact .inr rfl
    · exact .inl rfl

/-- A run may start at the states that hold the reset values, whatever is scheduled (R171). -/
theorem startsAtReset_iff {s : State} : startsAtReset s = true ↔ s = { State.reset with inputs := s.inputs } := by
  rw [startsAtReset, beq_iff_eq]
  exact ⟨congrArg fun u : State => { u with inputs := s.inputs }, congrArg fun u : State => { u with inputs := [] }⟩

/-- Settles O34: the test at the start of a run decides which of the two it is. -/
theorem runNotFromResetIsRefused : Obligations.RunNotFromResetIsRefused := by
  unfold Obligations.RunNotFromResetIsRefused
  exact fun n s => ⟨fun h => if_pos (startsAtReset_iff.2 h), fun h => if_neg (mt startsAtReset_iff.1 h)⟩

/-! ### Dark until INIT: R172, R173 -/

section Disabled

variable {s t : State}

/-- The schedule moves on by one cycle at every edge, a reset included (log entry 18). -/
theorem inputs_of_any_edge (h : step s = .next t) : t.inputs = s.inputs.tail := by
  cases hr : (nextInput s).rst with
  | true => rw [← Host.Outcome.next.inj ((step_of_rst hr).symm.trans h)]; rfl
  | false => exact inputs_of_edge hr h

/-- Only a performed INIT sets `EN`: a reset discards the INIT of its cycle (R27, R153). -/
theorem en_eq_false_of_edge (hen : s.en = false)
    (hinit : (nextInput s).requestsInit = true → (nextInput s).rst = true) (h : step s = .next t) : t.en = false := by
  cases hr : (nextInput s).rst with
  | true => rw [← Host.Outcome.next.inj ((step_of_rst hr).symm.trans h)]; rfl
  | false =>
    have hno : (nextInput s).requestsInit = false := Bool.eq_false_iff.2 fun hi => by simp [hinit hi] at hr
    rw [en_of_edge hr h, hen, hno]
    rfl

/-- Without a performed INIT a disabled block stays so along a run. -/
theorem en_eq_false_of_runSteps {n : Nat} (hen : s.en = false)
    (hinit : ∀ inp ∈ s.inputs.take n, inp.requestsInit = true → inp.rst = true) (h : runSteps n s = .next t) :
    t.en = false := by
  induction n generalizing s with
  | zero => exact Host.Outcome.next.inj h ▸ hen
  | succ n ih =>
    obtain ⟨u, hu, hrun⟩ := runSteps_succ_inv h
    obtain ⟨hnext, hrest⟩ := forall_next_cycles (P := fun q => q.requestsInit = true → q.rst = true) nofun hinit
    exact ih (en_eq_false_of_edge hen hnext hu) (inputs_of_any_edge hu ▸ hrest) hrun

end Disabled

/-- Settles O35: `EN` stays 0, and with `EN` = 0 the invariant fixes the sequencer, the class and the lines (R34
item 3). -/
theorem displayStaysDarkUntilInit : Obligations.DisplayStaysDarkUntilInit := by
  unfold Obligations.DisplayStaysDarkUntilInit
  intro n s t hs hinit hrun
  have hoff : s.en = false := by rw [startsAtReset_iff.1 hs]; rfl
  have hen : t.en = false := en_eq_false_of_runSteps hoff hinit hrun
  obtain ⟨hdiv, hpos, hph, -, hlines⟩ := (everyReachableStateSatisfiesInvariant n s t hs hrun).disabled hen
  exact ⟨hen, hpos, hph, hdiv, hlines, lit_of_lines_off hlines⟩

/-! ### The length and the lit cycles of a display phase: R182 -/

/-- The cycles with the line of position i asserted are counted along the lines after each edge. -/
theorem litCycles_eq_countP (i : Position) (n : Nat) (s : State) :
    litCycles i n s = (linesTrace n s).countP fun v => !v.getLsbD i.val := by
  induction n generalizing s with
  | zero => rfl
  | succ n ih =>
    obtain ⟨t, ht⟩ : ∃ t, step s = .next t := ⟨_, step_eq s⟩
    rw [litCycles, linesTrace_succ n ht, List.countP_cons, ht, ← ih, Nat.add_comm]
    rfl

/-- Of the edges of a phase whose lines are `v` after the first, all but the first count exactly when `v` does. -/
theorem countP_phase {f : DigLines → Bool} (hf : f 0b1111 = false) (n : Nat) (v : DigLines) :
    (0b1111 :: List.replicate n v).countP f = if f v then n else 0 := by
  rw [List.countP_cons, hf, List.countP_replicate]
  rfl

/-- With every line off no line counts as asserted (R32). -/
theorem lines_off_not_low (i : Position) : (!(0b1111 : DigLines).getLsbD i.val) = false := by revert i; decide

/-- Over resting cycles the timer sees no tick and one class. -/
theorem timerTrace_of_resting {s t : State} {l rest : List CycleInput} (n : Nat) (hin : s.inputs = l ++ rest)
    (hl : ∀ q ∈ l, q.Resting) (h : runSteps l.length s = .next t) :
    timerTrace (l.length + n) s = List.replicate l.length (false, s.div) ++ timerTrace n t := by
  induction l generalizing s with
  | nil => rw [Host.Outcome.next.inj h, List.length_nil, Nat.zero_add]; rfl
  | cons q l ih =>
    obtain ⟨hq, hrest⟩ := List.forall_mem_cons.1 hl
    obtain ⟨u, hu, hrun⟩ := runSteps_succ_inv h
    have ih := ih (inputs_of_step hin hq.rst_eq_false hu) hrest hrun
    obtain rfl := nextInput_of_cons hin
    have hdiv : u.div = s.div := div_of_not_processed hq.rst_eq_false (by simp [processesTick, hq.1])
      hq.requestsInit_eq_false hu
    rw [List.length_cons, Nat.succ_add, timerTrace_succ _ hu, hq.1, ih, hdiv, List.replicate_succ, List.cons_append]

/-- Between two ticks with the class standing at `c`, `n` cycles without a tick, spaced ticks are `n` + 1 apart
(R160). -/
theorem TimerSpacing.eq_period {period : DivClass → Nat} {c d : DivClass} {n : Nat} (hc : c ≠ 0)
    (h : TimerSpacing period ((true, d) :: (List.replicate n (false, c) ++ [(true, c)]))) : n + 1 = period c := by
  have hlast : ((true, d) :: (List.replicate n (false, c) ++ [(true, c)]))[n + 1]? = some (true, c) := by simp
  have hmid : ∀ m, 0 < m → m < n + 1 →
      ((true, d) :: (List.replicate n (false, c) ++ [(true, c)]))[m]? = some (false, c) := by
    intro m hpos hlt
    obtain ⟨m, rfl⟩ := Nat.exists_eq_add_one_of_ne_zero hpos.ne'
    have hm : m < n := by omega
    simp [List.getElem?_append_left, hm]
  simpa using (h.spaced 0 (n + 1) c d true hc rfl n.succ_pos hlast hmid).1 rfl

/-- Settles O43: the timer's trace over the phase is a tick, resting cycles under the on class, and the next tick; and
the line of the digit is asserted after every edge of the phase but the first. -/
theorem displayPhaseLastsOneOnPeriod : Obligations.DisplayPhaseLastsOneOnPeriod := by
  unfold Obligations.DisplayPhaseLastsOneOnPeriod
  intro period s i first last mid rest hin hp hphase hleaves hmid hlast hspacing
  replace hmid : ∀ q ∈ mid, q.Resting := hmid
  obtain ⟨hr, htick, hen⟩ := processesTick_iff.1 hp
  have hisPhase : isPhase (mid.length + 1) (first :: mid) = true :=
    isPhase_iff.2 ⟨first, mid, rfl, rfl, htick, hleaves, hmid⟩
  obtain ⟨u, hrun, hready, hlines⟩ := exists_run_of_displayPhase (b := s.bright) (rest := last :: rest)
    ⟨hen, rfl, rfl, hin⟩ hisPhase hphase
  obtain ⟨t, ht, hrest⟩ := runSteps_succ_inv hrun
  have hint : t.inputs = mid ++ last :: rest := inputs_of_step hin hr ht
  obtain rfl := nextInput_of_cons hin
  obtain ⟨-, hdiv, -⟩ := registers_of_display hp hphase (leavesSequencer_iff.1 hleaves).2.1 ht
  obtain ⟨hdivu, -⟩ := div_ph_of_quiet_run hint
    (fun q hq => ⟨(hmid q hq).quiet, (hmid q hq).requestsInit_eq_false⟩) hrest
  have hlength : mid.length + 1 = period (onDiv s.bright) := by
    rw [timerTrace_succ (mid.length + 1) ht, timerTrace_of_resting 1 hint hmid hrest, timerTrace_succ 0 (step_eq u),
      htick, nextInput_of_cons hready.inputs, hlast, hdivu, hdiv] at hspacing
    exact hspacing.eq_period (onDiv_ne_zero _)
  refine ⟨hlength, ?_⟩
  rw [List.length_cons] at hlines
  rw [← hlength, litCycles_eq_countP, hlines, countP_phase (lines_off_not_low i), selectLine_getLsbD]
  simp [Config.gap]

/-! ### The duty cycle of a multiplex cycle: R182 -/

/-- The lines after each edge of a display phase of `p` cycles (R130). -/
def displayLines (p : Nat) (i : Position) : List DigLines := 0b1111 :: List.replicate (p - 1) (selectLine i)

theorem drop_finRange_four : ∀ i : Position,
    (List.finRange 4).drop i.val = i :: (List.finRange 4).drop (i.val + 1) := by decide

/-- The lines of the display phases of all positions count as often as the line patterns do, in all cycles but one
each. -/
theorem countP_displayPhases {f : DigLines → Bool} (hf : f 0b1111 = false) (p : Nat) :
    ((List.finRange 4).flatMap (displayLines p)).countP f =
      (List.finRange 4).countP (f <| selectLine ·) * (p - 1) := by
  simp only [List.countP_flatMap, Function.comp_def, displayLines, countP_phase hf]
  induction List.finRange 4 with
  | nil => simp
  | cons i l ih =>
    rw [List.map_cons, List.sum_cons, ih, List.countP_cons]
    split <;> simp [Nat.add_mul, Nat.add_comm]

theorem length_flatten_of_phases {p : Nat} {ds : List (List CycleInput)} (h : ∀ d ∈ ds, isPhase p d = true) :
    ds.flatten.length = ds.length * p := by
  induction ds with
  | nil => simp
  | cons d ds ih =>
    obtain ⟨hd, hds⟩ := List.forall_mem_cons.1 h
    rw [List.flatten_cons, List.length_append, length_of_isPhase hd, ih hds, List.length_cons, Nat.succ_mul,
      Nat.add_comm]

section DutyCycle

variable {s : State} {b : Level} {k p : Nat} {rest : List CycleInput}

/-- Display phases from position k to position 3 drive the lines of these positions in turn, and end at position 4. -/
theorem exists_run_of_displayPhases {ds : List (List CycleInput)} (hs : ReadyAt b k (ds.flatten ++ rest) s)
    (hk : k + ds.length = 4) (hds : ∀ d ∈ ds, isPhase p d = true) :
    ∃ u, runSteps ds.flatten.length s = .next u ∧ ReadyAt b 4 rest u ∧
      linesTrace ds.flatten.length s = ((List.finRange 4).drop k).flatMap (displayLines p) := by
  induction ds generalizing k s with
  | nil =>
    obtain rfl : k = 4 := hk
    exact ⟨s, rfl, hs, rfl⟩
  | cons d ds ih =>
    obtain ⟨hd, hds⟩ := List.forall_mem_cons.1 hds
    rw [List.length_cons] at hk
    rw [List.flatten_cons, List.append_assoc] at hs
    obtain rfl := hs.position
    have hlt : s.pos.toNat < 4 := by omega
    obtain ⟨t, ht, htready, hlines⟩ := exists_run_of_displayPhase hs hd (phaseOf_of_lt hlt)
    obtain ⟨u, hu, huready, hrest⟩ := ih (k := s.pos.toNat + 1) htready (by omega) hds
    rw [List.flatten_cons, List.length_append]
    refine ⟨u, (runSteps_add ht).trans hu, huready, ?_⟩
    rw [linesTrace_add ht, hlines, hrest, drop_finRange_four ⟨_, hlt⟩, List.flatMap_cons, displayLines]

/-- From position 0, and past the last position at level 3, a tick displays position 0 (R123, R125). -/
theorem phaseOf_eq_display_zero (h : s.pos = 0 ∨ 4 ≤ s.pos.toNat ∧ s.bright.toNat = 3) : phaseOf s = .display 0 := by
  rcases h with hzero | ⟨hpos, hb⟩
  · simp [phaseOf, hzero]
  · exact phaseOf_skip hpos hb

/-- The four display phases of a multiplex cycle, from a state whose tick displays position 0 (R125, R127). -/
theorem exists_run_of_fourDisplayPhases {d0 d1 d2 d3 : List CycleInput} (hen : s.en = true)
    (hphase : phaseOf s = .display 0) (hds : ∀ d ∈ [d0, d1, d2, d3], isPhase p d = true)
    (hin : s.inputs = d0 ++ d1 ++ d2 ++ d3 ++ rest) :
    ∃ u, runSteps (4 * p) s = .next u ∧ ReadyAt s.bright 4 rest u ∧
      linesTrace (4 * p) s = (List.finRange 4).flatMap (displayLines p) := by
  obtain ⟨hd, hds'⟩ := List.forall_mem_cons.1 hds
  have hs : ReadyAt s.bright s.pos.toNat (d0 ++ ([d1, d2, d3].flatten ++ rest)) s := ⟨hen, rfl, rfl, by simp [hin]⟩
  obtain ⟨t, ht, htready, hlines⟩ := exists_run_of_displayPhase hs hd hphase
  obtain ⟨u, hu, huready, hrest⟩ := exists_run_of_displayPhases htready rfl hds'
  have hlength : 4 * p = d0.length + [d1, d2, d3].flatten.length := by
    rw [← List.length_append, ← List.flatten_cons, length_flatten_of_phases hds]
    rfl
  rw [hlength]
  exact ⟨u, (runSteps_add ht).trans hu, huready, by rw [linesTrace_add ht, hlines, hrest]; rfl⟩

/-- A pause phase leaves no assertion pending (R126). -/
theorem arm_of_pausePhase {l : List CycleInput} {u : State} (hs : ReadyAt b k (l ++ rest) s)
    (hl : isPhase p l = true) (hphase : phaseOf s = .pause) (h : runSteps l.length s = .next u) : u.arm = false := by
  obtain ⟨hp, hctrl, -⟩ := exists_run_of_phase hs hl
  obtain ⟨a, mid, rfl, -, -, -, hmid⟩ := isPhase_iff.1 hl
  obtain ⟨t, ht, hrest⟩ := runSteps_succ_inv h
  obtain ⟨-, -, -, harm⟩ := registers_of_pause hp hphase hctrl ht
  have hin : t.inputs = mid ++ rest :=
    inputs_of_step hs.inputs (nextInput_of_cons hs.inputs ▸ (processesTick_iff.1 hp).1) ht
  exact runSteps_keeps_over (P := fun v => v.arm = false) (fun q hq => hq.1)
    (fun v w hq _ hw => (lines_of_quiet hq hw).2) hin (fun q hq => (hmid q hq).quiet) harm hrest

/-- Where the lines are those of the four display phases and then off, each digit is lit in one phase, but for `GAP` of
its cycles (R181, R182; log entry 20). -/
theorem litCycles_of_displayLines {n m : Nat}
    (h : linesTrace n s = (List.finRange 4).flatMap (displayLines p) ++ List.replicate m 0b1111) :
    (∀ i : Position, litCycles i n s = p - Config.gap) ∧ anyLitCycles n s = 4 * (p - Config.gap) := by
  constructor
  case left =>
    intro i
    have hone : (List.finRange 4).countP (fun k => !(selectLine k).getLsbD i.val) = 1 := by revert i; decide
    rw [litCycles_eq_countP, h, List.countP_append, countP_displayPhases (lines_off_not_low i), hone,
      List.countP_replicate, lines_off_not_low]
    simp [Config.gap]
  case right =>
    have hall : (List.finRange 4).countP (fun k => decide (selectLine k ≠ 0b1111)) = 4 := by decide
    rw [anyLitCycles_eq_countP, h, List.countP_append, countP_displayPhases (by decide), hall, List.countP_replicate]
    simp [Config.gap]

end DutyCycle

/-- Settles O44: the display phases drive the four lines in turn, each for all its cycles but the first, and a pause
none. -/
theorem dutyCycleOfAMultiplexCycle : Obligations.DutyCycleOfAMultiplexCycle := by
  unfold Obligations.DutyCycleOfAMultiplexCycle
  refine ⟨fun s pOn pOff d0 d1 d2 d3 z rest hen hpos hb h0 h1 h2 h3 hz hin => ?below,
    fun s pOn d0 d1 d2 d3 rest hen hpos hb h0 h1 h2 h3 hin => ?full⟩
  case below =>
    have hphase : phaseOf s = .display 0 := phaseOf_eq_display_zero (.inl hpos)
    obtain ⟨t, ht, htready, hlines⟩ := exists_run_of_fourDisplayPhases (p := pOn) hen hphase
      (by simp [h0, h1, h2, h3]) (hin.trans (List.append_assoc _ _ _))
    have hpause : phaseOf t = .pause := phaseOf_pause htready.position.ge (htready.bright ▸ hb.ne)
    obtain ⟨u, hu, huready, hdark⟩ := exists_run_of_pausePhase htready hz hpause
    have harm : u.arm = false := arm_of_pausePhase htready hz hpause hu
    rw [length_of_isPhase hz] at hu hdark
    rw [← List.replicate_succ] at hdark
    obtain ⟨hlit, hany⟩ := litCycles_of_displayLines ((linesTrace_add ht).trans (by rw [hlines, hdark]))
    exact ⟨hlit, hany, u, (runSteps_add ht).trans hu, BitVec.eq_of_toNat_eq huready.position, harm, huready.inputs⟩
  case full =>
    have hphase : phaseOf s = .display 0 := phaseOf_eq_display_zero (hpos.imp_right (⟨·, hb⟩))
    obtain ⟨u, hu, huready, hlines⟩ := exists_run_of_fourDisplayPhases (p := pOn) hen hphase
      (by simp [h0, h1, h2, h3]) hin
    obtain ⟨hlit, hany⟩ := litCycles_of_displayLines (m := 0) (hlines.trans (List.append_nil _).symm)
    exact ⟨hlit, hany, u, hu, BitVec.eq_of_toNat_eq huready.position, huready.inputs⟩

end Sys2Proof.Machine
